-- ==== Sys2Proof/Word.lean ====
section
/-! DEFINITION. The bit-vector types the spec works in (00_scope.md R8; 30_encoding.md R87). -/

namespace Sys2Proof

/-- A byte of a memory: 8 bits (10_state.md R44). -/
abbrev Byte := BitVec 8

/-- A 16-bit field of the header, and the width of `a` in a command (30_encoding.md R81, R87). -/
abbrev Half := BitVec 16

/-- A 32-bit field of the header, and the width of `imm` in a command (30_encoding.md R81, R87). -/
abbrev Word := BitVec 32

/-- One command `C` of 64 bits (30_encoding.md R87), and the value of a response (R89). -/
abbrev DWord := BitVec 64

end Sys2Proof
end

