-- ==== Sys2Proof/Syntax.lean ====
section
/-! DEFINITION. The commands of the block: one constructor per row of spec/opcode_table.json
(30_encoding.md R92). A constructor carries, raw, exactly the fields of `CMD64` its command may use (R87):
`imm` always (a word whose `imm` is too wide still spells the command, R94), `a` for STB, LDB, DECODE and
CKSUM, and the space for STB and LDB (a selector above 2 spells no command, R94, R96). -/

namespace Sys2Proof

/-- The three byte memories (10_state.md R44). -/
inductive Space where
  | opt
  | pay
  | wire
  deriving DecidableEq, Repr

/-- A command (30_encoding.md R92). The docstrings give the opcode and the rule of the meaning. -/
inductive Instr where
  /-- 0x01, R111 -/
  | clear (imm : Word)
  /-- 0x02, R112 -/
  | rstCsum (imm : Word)
  /-- 0x10, R113 -/
  | setSport (imm : Word)
  /-- 0x11, R114 -/
  | setDport (imm : Word)
  /-- 0x12, R115 -/
  | setSeq (imm : Word)
  /-- 0x13, R116 -/
  | setAck (imm : Word)
  /-- 0x14, R117 -/
  | setHlw (imm : Word)
  /-- 0x15, R118 -/
  | setFlags (imm : Word)
  /-- 0x16, R119 -/
  | setWin (imm : Word)
  /-- 0x17, R120 -/
  | setCsum (imm : Word)
  /-- 0x18, R121 -/
  | setUrg (imm : Word)
  /-- 0x19, R122 -/
  | setOpts (imm : Word)
  /-- 0x1A, R123 -/
  | setPay (imm : Word)
  /-- 0x1B, R124 -/
  | clrPay (imm : Word)
  /-- 0x20, R125 -/
  | getSport (imm : Word)
  /-- 0x21, R126 -/
  | getDport (imm : Word)
  /-- 0x22, R127 -/
  | getSeq (imm : Word)
  /-- 0x23, R128 -/
  | getAck (imm : Word)
  /-- 0x24, R129 -/
  | getHlw (imm : Word)
  /-- 0x25, R130 -/
  | getFlags (imm : Word)
  /-- 0x26, R131 -/
  | getWin (imm : Word)
  /-- 0x27, R132 -/
  | getCsum (imm : Word)
  /-- 0x28, R133 -/
  | getUrg (imm : Word)
  /-- 0x29, R134 -/
  | getOptlen (imm : Word)
  /-- 0x2A, R135 -/
  | getPaylen (imm : Word)
  /-- 0x2B, R136 -/
  | getPayvalid (imm : Word)
  /-- 0x2C, R137 -/
  | getWlen (imm : Word)
  /-- 0x30, R138 -/
  | setPsrc (imm : Word)
  /-- 0x31, R139 -/
  | setPdst (imm : Word)
  /-- 0x32, R140 -/
  | setPproto (imm : Word)
  /-- 0x33, R141 -/
  | setPvalid (imm : Word)
  /-- 0x34, R142 -/
  | getPsrc (imm : Word)
  /-- 0x35, R143 -/
  | getPdst (imm : Word)
  /-- 0x36, R144 -/
  | getPproto (imm : Word)
  /-- 0x37, R145 -/
  | getPvalid (imm : Word)
  /-- 0x40, R161 -/
  | stb (sp : Space) (a : Half) (imm : Word)
  /-- 0x41, R162 -/
  | ldb (sp : Space) (a : Half) (imm : Word)
  /-- 0x50, R170 -/
  | encode (imm : Word)
  /-- 0x51, R210 -/
  | decode (a : Half) (imm : Word)
  /-- 0x52, R198 -/
  | cksum (a : Half) (imm : Word)
  /-- 0x60, R231 -/
  | mpEnabled (imm : Word)
  /-- 0x61, R232 -/
  | mpSubtype (imm : Word)
  /-- 0x62, R233 -/
  | mpKey (imm : Word)
  /-- 0x63, R234 -/
  | mpToken (imm : Word)
  deriving DecidableEq, Repr

end Sys2Proof
end

