-- ==== Sys2Proof/Decode.lean ====
section
/-! DEFINITION. The decoder of a command word (30_encoding.md R87, R90 steps 1 and 2, R92, R94) and the encoder,
both written from the opcode map R92. Steps 3 to 5 of R90 are the meaning's: an `imm` that is too wide still
spells the command (R94). -/

namespace Sys2Proof

/-- The fields of a command word `C` (30_encoding.md R87): `op` is bits 63:56. -/
def opField (c : DWord) : BitVec 8 := c.extractLsb' 56 8

/-- `sp` is bits 55:48 (30_encoding.md R87). -/
def spField (c : DWord) : BitVec 8 := c.extractLsb' 48 8

/-- `a` is bits 47:32 (30_encoding.md R87). -/
def aField (c : DWord) : Half := c.extractLsb' 32 16

/-- `imm` is bits 31:0 (30_encoding.md R87). -/
def immField (c : DWord) : Word := c.extractLsb' 0 32

/-- A command word from its four fields (30_encoding.md R87). -/
def commandWord (op sp : BitVec 8) (a : Half) (imm : Word) : DWord := op ++ sp ++ a ++ imm

/-- The selector of each space (30_encoding.md R87). -/
def Space.selector : Space → BitVec 8
  | .opt => 0
  | .pay => 1
  | .wire => 2

/-- The space a selector names; selectors 3 to 255 are reserved (20_memory.md R67). -/
def Space.ofSelector (sp : BitVec 8) : Option Space :=
  if sp = 0 then some .opt else if sp = 1 then some .pay else if sp = 2 then some .wire else none

/-- Why a word spells no command (30_encoding.md R90 steps 1 and 2, R96). The response is IllegalCommand for
each of them. -/
inductive Illegal where
  /-- `op` is not in the opcode map -/
  | unknownOpcode
  /-- a field the command does not use is not 0 -/
  | unusedFieldNonzero
  /-- the space selector of STB or LDB is above 2 -/
  | reservedSpace
  deriving DecidableEq, Repr

/-- What the decoder answers on a word. -/
inductive Decoded where
  | command (i : Instr)
  | illegal (why : Illegal)
  deriving DecidableEq, Repr

/-- A command that uses neither `sp` nor `a` (R90 step 2). -/
def decodePlain (c : DWord) (mk : Word → Instr) : Decoded :=
  if spField c = 0 ∧ aField c = 0 then .command (mk (immField c)) else .illegal .unusedFieldNonzero

/-- A command that uses `a` and not `sp`: DECODE and CKSUM (R90 step 2). -/
def decodeWindow (c : DWord) (mk : Half → Word → Instr) : Decoded :=
  if spField c = 0 then .command (mk (aField c) (immField c)) else .illegal .unusedFieldNonzero

/-- A command that uses `sp` and `a`: STB and LDB (R90 step 2). -/
def decodeSpace (c : DWord) (mk : Space → Half → Word → Instr) : Decoded :=
  match Space.ofSelector (spField c) with
  | some sp => .command (mk sp (aField c) (immField c))
  | none => .illegal .reservedSpace

/-- The decoder: total on every word (30_encoding.md R90 steps 1 and 2, R92). -/
def decodeWord (c : DWord) : Decoded :=
  match (opField c).toNat with
  | 0x01 => decodePlain c .clear
  | 0x02 => decodePlain c .rstCsum
  | 0x10 => decodePlain c .setSport
  | 0x11 => decodePlain c .setDport
  | 0x12 => decodePlain c .setSeq
  | 0x13 => decodePlain c .setAck
  | 0x14 => decodePlain c .setHlw
  | 0x15 => decodePlain c .setFlags
  | 0x16 => decodePlain c .setWin
  | 0x17 => decodePlain c .setCsum
  | 0x18 => decodePlain c .setUrg
  | 0x19 => decodePlain c .setOpts
  | 0x1A => decodePlain c .setPay
  | 0x1B => decodePlain c .clrPay
  | 0x20 => decodePlain c .getSport
  | 0x21 => decodePlain c .getDport
  | 0x22 => decodePlain c .getSeq
  | 0x23 => decodePlain c .getAck
  | 0x24 => decodePlain c .getHlw
  | 0x25 => decodePlain c .getFlags
  | 0x26 => decodePlain c .getWin
  | 0x27 => decodePlain c .getCsum
  | 0x28 => decodePlain c .getUrg
  | 0x29 => decodePlain c .getOptlen
  | 0x2A => decodePlain c .getPaylen
  | 0x2B => decodePlain c .getPayvalid
  | 0x2C => decodePlain c .getWlen
  | 0x30 => decodePlain c .setPsrc
  | 0x31 => decodePlain c .setPdst
  | 0x32 => decodePlain c .setPproto
  | 0x33 => decodePlain c .setPvalid
  | 0x34 => decodePlain c .getPsrc
  | 0x35 => decodePlain c .getPdst
  | 0x36 => decodePlain c .getPproto
  | 0x37 => decodePlain c .getPvalid
  | 0x40 => decodeSpace c .stb
  | 0x41 => decodeSpace c .ldb
  | 0x50 => decodePlain c .encode
  | 0x51 => decodeWindow c .decode
  | 0x52 => decodeWindow c .cksum
  | 0x60 => decodePlain c .mpEnabled
  | 0x61 => decodePlain c .mpSubtype
  | 0x62 => decodePlain c .mpKey
  | 0x63 => decodePlain c .mpToken
  | _ => .illegal .unknownOpcode

/-- The encoder: the word of a command (30_encoding.md R87, R92). -/
def encodeWord : Instr → DWord
  | .clear imm => commandWord 0x01 0 0 imm
  | .rstCsum imm => commandWord 0x02 0 0 imm
  | .setSport imm => commandWord 0x10 0 0 imm
  | .setDport imm => commandWord 0x11 0 0 imm
  | .setSeq imm => commandWord 0x12 0 0 imm
  | .setAck imm => commandWord 0x13 0 0 imm
  | .setHlw imm => commandWord 0x14 0 0 imm
  | .setFlags imm => commandWord 0x15 0 0 imm
  | .setWin imm => commandWord 0x16 0 0 imm
  | .setCsum imm => commandWord 0x17 0 0 imm
  | .setUrg imm => commandWord 0x18 0 0 imm
  | .setOpts imm => commandWord 0x19 0 0 imm
  | .setPay imm => commandWord 0x1A 0 0 imm
  | .clrPay imm => commandWord 0x1B 0 0 imm
  | .getSport imm => commandWord 0x20 0 0 imm
  | .getDport imm => commandWord 0x21 0 0 imm
  | .getSeq imm => commandWord 0x22 0 0 imm
  | .getAck imm => commandWord 0x23 0 0 imm
  | .getHlw imm => commandWord 0x24 0 0 imm
  | .getFlags imm => commandWord 0x25 0 0 imm
  | .getWin imm => commandWord 0x26 0 0 imm
  | .getCsum imm => commandWord 0x27 0 0 imm
  | .getUrg imm => commandWord 0x28 0 0 imm
  | .getOptlen imm => commandWord 0x29 0 0 imm
  | .getPaylen imm => commandWord 0x2A 0 0 imm
  | .getPayvalid imm => commandWord 0x2B 0 0 imm
  | .getWlen imm => commandWord 0x2C 0 0 imm
  | .setPsrc imm => commandWord 0x30 0 0 imm
  | .setPdst imm => commandWord 0x31 0 0 imm
  | .setPproto imm => commandWord 0x32 0 0 imm
  | .setPvalid imm => commandWord 0x33 0 0 imm
  | .getPsrc imm => commandWord 0x34 0 0 imm
  | .getPdst imm => commandWord 0x35 0 0 imm
  | .getPproto imm => commandWord 0x36 0 0 imm
  | .getPvalid imm => commandWord 0x37 0 0 imm
  | .stb sp a imm => commandWord 0x40 sp.selector a imm
  | .ldb sp a imm => commandWord 0x41 sp.selector a imm
  | .encode imm => commandWord 0x50 0 0 imm
  | .decode a imm => commandWord 0x51 0 a imm
  | .cksum a imm => commandWord 0x52 0 a imm
  | .mpEnabled imm => commandWord 0x60 0 0 imm
  | .mpSubtype imm => commandWord 0x61 0 0 imm
  | .mpKey imm => commandWord 0x62 0 0 imm
  | .mpToken imm => commandWord 0x63 0 0 imm

/-- The instruction read, where the word spells one. -/
def Decoded.instr? : Decoded → Option Instr
  | .command i => some i
  | .illegal _ => none

/-- The instruction the decoder reads from an instruction whose low `nbits` bits are those of `w`, the bits above
being 0 (spec/opcode_table.json numbers a row's bits as 30_encoding.md R87 does: one 64-bit word). -/
def decodeTableWord (nbits w : Nat) : Option Instr :=
  (decodeWord (BitVec.ofNat 64 (w % 2 ^ nbits))).instr?

/-- A row of the opcode table: `mask` and `match` (30_encoding.md R94). -/
structure TableRow where
  mask : DWord
  pattern : DWord
  /-- the side condition `sp <= 2` of STB and LDB -/
  needsSpace : Bool
  deriving DecidableEq, Repr

/-- A word spells the row's command (30_encoding.md R94). -/
def TableRow.spells (r : TableRow) (c : DWord) : Bool :=
  c &&& r.mask == r.pattern && (!r.needsSpace || (spField c).toNat ≤ 2)

/-- The mask and the match of every command, as spec/opcode_table.json has them (30_encoding.md R94). -/
def Instr.tableRow : Instr → TableRow
  | .clear _ => ⟨0xFFFFFFFF00000000, 0x0100000000000000, false⟩
  | .rstCsum _ => ⟨0xFFFFFFFF00000000, 0x0200000000000000, false⟩
  | .setSport _ => ⟨0xFFFFFFFF00000000, 0x1000000000000000, false⟩
  | .setDport _ => ⟨0xFFFFFFFF00000000, 0x1100000000000000, false⟩
  | .setSeq _ => ⟨0xFFFFFFFF00000000, 0x1200000000000000, false⟩
  | .setAck _ => ⟨0xFFFFFFFF00000000, 0x1300000000000000, false⟩
  | .setHlw _ => ⟨0xFFFFFFFF00000000, 0x1400000000000000, false⟩
  | .setFlags _ => ⟨0xFFFFFFFF00000000, 0x1500000000000000, false⟩
  | .setWin _ => ⟨0xFFFFFFFF00000000, 0x1600000000000000, false⟩
  | .setCsum _ => ⟨0xFFFFFFFF00000000, 0x1700000000000000, false⟩
  | .setUrg _ => ⟨0xFFFFFFFF00000000, 0x1800000000000000, false⟩
  | .setOpts _ => ⟨0xFFFFFFFF00000000, 0x1900000000000000, false⟩
  | .setPay _ => ⟨0xFFFFFFFF00000000, 0x1A00000000000000, false⟩
  | .clrPay _ => ⟨0xFFFFFFFF00000000, 0x1B00000000000000, false⟩
  | .getSport _ => ⟨0xFFFFFFFF00000000, 0x2000000000000000, false⟩
  | .getDport _ => ⟨0xFFFFFFFF00000000, 0x2100000000000000, false⟩
  | .getSeq _ => ⟨0xFFFFFFFF00000000, 0x2200000000000000, false⟩
  | .getAck _ => ⟨0xFFFFFFFF00000000, 0x2300000000000000, false⟩
  | .getHlw _ => ⟨0xFFFFFFFF00000000, 0x2400000000000000, false⟩
  | .getFlags _ => ⟨0xFFFFFFFF00000000, 0x2500000000000000, false⟩
  | .getWin _ => ⟨0xFFFFFFFF00000000, 0x2600000000000000, false⟩
  | .getCsum _ => ⟨0xFFFFFFFF00000000, 0x2700000000000000, false⟩
  | .getUrg _ => ⟨0xFFFFFFFF00000000, 0x2800000000000000, false⟩
  | .getOptlen _ => ⟨0xFFFFFFFF00000000, 0x2900000000000000, false⟩
  | .getPaylen _ => ⟨0xFFFFFFFF00000000, 0x2A00000000000000, false⟩
  | .getPayvalid _ => ⟨0xFFFFFFFF00000000, 0x2B00000000000000, false⟩
  | .getWlen _ => ⟨0xFFFFFFFF00000000, 0x2C00000000000000, false⟩
  | .setPsrc _ => ⟨0xFFFFFFFF00000000, 0x3000000000000000, false⟩
  | .setPdst _ => ⟨0xFFFFFFFF00000000, 0x3100000000000000, false⟩
  | .setPproto _ => ⟨0xFFFFFFFF00000000, 0x3200000000000000, false⟩
  | .setPvalid _ => ⟨0xFFFFFFFF00000000, 0x3300000000000000, false⟩
  | .getPsrc _ => ⟨0xFFFFFFFF00000000, 0x3400000000000000, false⟩
  | .getPdst _ => ⟨0xFFFFFFFF00000000, 0x3500000000000000, false⟩
  | .getPproto _ => ⟨0xFFFFFFFF00000000, 0x3600000000000000, false⟩
  | .getPvalid _ => ⟨0xFFFFFFFF00000000, 0x3700000000000000, false⟩
  | .stb _ _ _ => ⟨0xFF00000000000000, 0x4000000000000000, true⟩
  | .ldb _ _ _ => ⟨0xFF00000000000000, 0x4100000000000000, true⟩
  | .encode _ => ⟨0xFFFFFFFF00000000, 0x5000000000000000, false⟩
  | .decode _ _ => ⟨0xFFFF000000000000, 0x5100000000000000, false⟩
  | .cksum _ _ => ⟨0xFFFF000000000000, 0x5200000000000000, false⟩
  | .mpEnabled _ => ⟨0xFFFFFFFF00000000, 0x6000000000000000, false⟩
  | .mpSubtype _ => ⟨0xFFFFFFFF00000000, 0x6100000000000000, false⟩
  | .mpKey _ => ⟨0xFFFFFFFF00000000, 0x6200000000000000, false⟩
  | .mpToken _ => ⟨0xFFFFFFFF00000000, 0x6300000000000000, false⟩

end Sys2Proof
end

