-- ==== Sys2Proof/Config.lean ====
section
/-! DEFINITION. What is fixed for a run: the constants and parameters of 00_scope.md R7, and the free values,
which are constants with no body, so that no proof can see what they are (log entries 1 and 2). -/

namespace Sys2Proof

/-- `BASE_LEN`, the fixed base header (00_scope.md R7). -/
abbrev Config.baseLen : Nat := 20

/-- `HLW_MIN` (00_scope.md R7). -/
abbrev Config.hlwMin : Nat := 5

/-- `OPT_MAX` (00_scope.md R7). -/
abbrev Config.optMax : Nat := 40

/-- `PAY_SIZE` (00_scope.md R7). -/
abbrev Config.paySize : Nat := 65536

/-- `WIRE_SIZE` (00_scope.md R7). -/
abbrev Config.wireSize : Nat := 65536

/-- `TOTAL_MAX` (00_scope.md R7). -/
abbrev Config.totalMax : Nat := 65535

/-- The size of each space in bytes (10_state.md R44). -/
def Space.size : Space → Nat
  | .opt => Config.optMax
  | .pay => Config.paySize
  | .wire => Config.wireSize

/-- The parameters of 00_scope.md R7, fixed for a run. -/
structure Params where
  /-- `PROTO_ID`: the protocol identifier ENCODE writes to the parent (42_encode.md R177). -/
  protoId : BitVec 8
  /-- `ENC_WRITEBACK`: whether ENCODE stores the length and the checksum in the record (42_encode.md R181). -/
  encWriteback : Bool
  deriving DecidableEq, Repr

/-- The defaults of 00_scope.md R7: `PROTO_ID` 6, `ENC_WRITEBACK` 0. -/
def Params.default : Params := { protoId := 6, encWriteback := false }

/-- The registers a failed DECODE leaves unspecified (44_decode.md R222), as names for their free values. -/
inductive RecordReg where
  | sport
  | dport
  | seq
  | ack
  | hlw
  | flags
  | win
  | csum
  | urg
  | optlen
  | payvalid
  | paylen
  deriving DecidableEq, Repr

/-- FREE VALUE (log entry 1): the byte at an address of a space that nothing has been written to since draw
number `draw`. Draw 0 is power-on (10_state.md R46); each failed DECODE makes a new draw for OPT and PAY
(44_decode.md R222). Nothing constrains it. -/
opaque Config.freeByte (sp : Space) (draw : Nat) (a : Nat) : Byte

/-- FREE VALUE (log entry 2): what a register of the record holds after the failed DECODE that made draw number
`draw` (44_decode.md R222). Nothing constrains it; its reader narrows it to the register's legal values. -/
opaque Config.freeReg (r : RecordReg) (draw : Nat) : Nat

end Sys2Proof
end

