-- ==== Sys2Proof/Machine/State.lean ====
section
/-! DEFINITION. The state of the block (10_state.md R20, R38) as plain data, the statuses of a response
(60_exceptions.md R242), and the state after power-on reset (10_state.md R46). -/

namespace Sys2Proof.Machine

/-- The header record registers `HR.*` (10_state.md R21 to R29). -/
structure HeaderRecord where
  sport : Half
  dport : Half
  seq : Word
  ack : Word
  /-- the header length in 4-byte words; 0 means not set -/
  hlw : BitVec 4
  flags : BitVec 9
  win : Half
  /-- 0 is the sentinel "not yet computed" -/
  csum : Half
  urg : Half
  deriving DecidableEq, Repr

/-- The length and valid registers `LR.*` (10_state.md R30, R36, R37). -/
structure LengthRegs where
  /-- legal values 0 to 40 -/
  optlen : BitVec 6
  paylen : Half
  payvalid : BitVec 1
  wlen : Half
  deriving DecidableEq, Repr

/-- The parent context registers `PC.*` (10_state.md R31 to R34). -/
structure ParentContext where
  valid : BitVec 1
  src : Word
  dst : Word
  proto : BitVec 8
  deriving DecidableEq, Repr

/-- A byte memory (10_state.md R44). `cells` lists the bytes written since draw number `draw`, addresses strictly
rising; an address that is not listed has no value of its own there and reads as the free value
`Config.freeByte` of that draw (log entry 1). -/
structure Memory where
  cells : List Host.Cell
  draw : Nat
  deriving DecidableEq, Repr

/-- The status of a response (60_exceptions.md R242). -/
inductive Status where
  | ok
  | headerTooShort
  | bufferUnderrun
  | optionsTooLong
  | optionAccessOutOfRange
  | layoutInvariant
  | lengthOverflow
  | operandOutOfRange
  | addressOutOfRange
  | illegalCommand
  deriving DecidableEq, Repr

/-- A response `(st, val)` (30_encoding.md R89). -/
structure Response where
  st : Status
  val : DWord
  deriving DecidableEq, Repr

/-- The state: the block's own (10_state.md R20), and, below `pc`, what a run of it has beside it. -/
structure State where
  hr : HeaderRecord
  lr : LengthRegs
  parent : ParentContext
  opt : Memory
  pay : Memory
  wire : Memory
  /-- the index of the next command (10_state.md R45) -/
  pc : Nat
  /-- the host's list of command words `P` (10_state.md R45, R47; log entry 3) -/
  program : List DWord
  /-- the responses delivered so far, oldest first (10_state.md R45; log entry 4) -/
  responses : List Response
  /-- the parameters, fixed for a run (00_scope.md R7; log entry 5) -/
  params : Params
  /-- the model's own counter of free values drawn (log entry 2) -/
  draws : Nat
  deriving DecidableEq, Repr

/-- Why the machine stops. No state of the block stops it (60_exceptions.md R249), so the one reason is a state that
is none of the block's. -/
inductive Fault where
  /-- Raised by `step` where `pc` is above the program's length, which 10_state.md R45 says never happens.
  Safe: no run from a state with `pc` at most the length reaches it (log entry 7). -/
  | pcPastProgram
  deriving DecidableEq, Repr

/-- Why an instruction is refused. -/
inductive Refusal where
  /-- Raised by `exec` for an instruction that has no meaning yet; no arm of this model does so. Safe. -/
  | notModelled (mnemonic : String)
  deriving DecidableEq, Repr

/-- The record registers with every field 0 (10_state.md R46; 40_field_access.md R111). -/
def HeaderRecord.zero : HeaderRecord :=
  { sport := 0, dport := 0, seq := 0, ack := 0, hlw := 0, flags := 0, win := 0, csum := 0, urg := 0 }

/-- A memory nothing has been written to since draw number `n`. -/
def Memory.unwritten (n : Nat) : Memory := { cells := [], draw := n }

/-- The state after power-on reset (10_state.md R46): every register 0, the memories unspecified, `pc` 0. The
program is empty until the host gives one (log entry 3), the parameters have their defaults (log entry 5). -/
def State.reset : State where
  hr := HeaderRecord.zero
  lr := { optlen := 0, paylen := 0, payvalid := 0, wlen := 0 }
  parent := { valid := 0, src := 0, dst := 0, proto := 0 }
  opt := Memory.unwritten 0
  pay := Memory.unwritten 0
  wire := Memory.unwritten 0
  pc := 0
  program := []
  responses := []
  params := Params.default
  draws := 0

end Sys2Proof.Machine
end

