-- ==== Sys2Proof/Machine/Ops.lean ====
section
/-! DEFINITION. The named operations over memories and registers, the delivery of a response, and the one way a
command ends with an error (60_exceptions.md R240, R241, R256). There is no return from an error to model: nothing
was entered (R257). -/

namespace Sys2Proof.Machine

/-! ### Bytes of a memory -/

/-- The byte listed at an address, if one is. -/
def Memory.lookup : List Host.Cell → Nat → Option Byte
  | [], _ => none
  | (k, b) :: rest, a => if k = a then some b else Memory.lookup rest a

/-- The addresses of the cells rise strictly from `lo` on and stay below `size`. -/
def Memory.rising (size : Nat) : Nat → List Host.Cell → Bool
  | _, [] => true
  | lo, (k, _) :: rest => decide (lo ≤ k) && decide (k < size) && Memory.rising size (k + 1) rest

/-- The canonical form of the memory of a space: addresses strictly rising, all inside the space. -/
def Memory.wf (sp : Space) (m : Memory) : Bool := Memory.rising sp.size 0 m.cells

/-- A byte of a memory (10_state.md R44); an address nothing has been written to reads as its free value
(70_reset_and_hazards.md R274). -/
def Memory.read (sp : Space) (m : Memory) (a : Nat) : Byte :=
  match Memory.lookup m.cells a with
  | some b => b
  | none => Config.freeByte sp m.draw a

/-- The bytes at consecutive addresses from `a` on, as cells. -/
def Memory.cellsFrom : Nat → List Byte → List Host.Cell
  | _, [] => []
  | a, b :: bs => (a, b) :: Memory.cellsFrom (a + 1) bs

/-- Store bytes at consecutive addresses from `a` on, in index order (00_scope.md R9, 20_memory.md R62); every
other byte is as before (20_memory.md R66). -/
def Memory.store (m : Memory) (a : Nat) (bs : List Byte) : Memory :=
  { m with
    cells :=
      m.cells.filter (fun c => decide (c.1 < a)) ++ Memory.cellsFrom a bs ++
        m.cells.filter (fun c => decide (a + bs.length ≤ c.1)) }

/-! ### The three memories of the state -/

/-- The memory of a space (10_state.md R44). -/
def State.mem (s : State) : Space → Memory
  | .opt => s.opt
  | .pay => s.pay
  | .wire => s.wire

/-- `MemRead(S, a, 1)` (00_scope.md R9). -/
def State.readByte (s : State) (sp : Space) (a : Nat) : Byte := Memory.read sp (s.mem sp) a

/-- `S[a .. a+n-1]` (00_scope.md R8). -/
def State.readBytes (s : State) (sp : Space) : Nat → Nat → List Byte
  | _, 0 => []
  | a, n + 1 => s.readByte sp a :: State.readBytes s sp (a + 1) n

/-- `MemRead(S, a, 2)`, big-endian (00_scope.md R9, 20_memory.md R60). -/
def State.read16 (s : State) (sp : Space) (a : Nat) : Half :=
  s.readByte sp a ++ s.readByte sp (a + 1)

/-- `MemRead(S, a, 4)`, big-endian (00_scope.md R9, 20_memory.md R60). -/
def State.read32 (s : State) (sp : Space) (a : Nat) : Word :=
  s.read16 sp a ++ s.read16 sp (a + 2)

/-- Eight bytes, the first the most significant (45_option_extractor.md R233). -/
def State.read64 (s : State) (sp : Space) (a : Nat) : DWord :=
  s.read32 sp a ++ s.read32 sp (a + 4)

/-- Store bytes in a space from address `a` on. -/
def State.store (s : State) (sp : Space) (a : Nat) (bs : List Byte) : State :=
  match sp with
  | .opt => { s with opt := s.opt.store a bs }
  | .pay => { s with pay := s.pay.store a bs }
  | .wire => { s with wire := s.wire.store a bs }

/-! ### Big-endian byte sequences -/

/-- A 16-bit field as bytes, most significant first (20_memory.md R60). -/
def be16 (v : Half) : List Byte := [v.extractLsb' 8 8, v.extractLsb' 0 8]

/-- A 32-bit field as bytes, most significant first (20_memory.md R60). -/
def be32 (v : Word) : List Byte :=
  [v.extractLsb' 24 8, v.extractLsb' 16 8, v.extractLsb' 8 8, v.extractLsb' 0 8]

/-! ### Groups of registers -/

/-- The record registers replaced. -/
def State.setHr (s : State) (h : HeaderRecord) : State := { s with hr := h }

/-- The length registers replaced. -/
def State.setLr (s : State) (l : LengthRegs) : State := { s with lr := l }

/-- The parent context replaced. -/
def State.setParent (s : State) (p : ParentContext) : State := { s with parent := p }

/-- The record made empty: what CLEAR writes (40_field_access.md R111) and DECODE starts from (44_decode.md R211). -/
def State.clearRecord (s : State) : State :=
  (s.setHr HeaderRecord.zero).setLr { s.lr with optlen := 0, paylen := 0, payvalid := 0 }

/-! ### Responses -/

/-- The code of a status (60_exceptions.md R242). -/
def Status.code : Status → BitVec 8
  | .ok => 0x00
  | .headerTooShort => 0x01
  | .bufferUnderrun => 0x02
  | .optionsTooLong => 0x03
  | .optionAccessOutOfRange => 0x04
  | .layoutInvariant => 0x05
  | .lengthOverflow => 0x06
  | .operandOutOfRange => 0x07
  | .addressOutOfRange => 0x08
  | .illegalCommand => 0x09

/-- The end of every command: the response is delivered and `pc <- pc + 1`, whatever the status (10_state.md R45,
60_exceptions.md R241, R249). -/
def State.deliver (s : State) (r : Response) : State :=
  { s with pc := s.pc + 1, responses := s.responses ++ [r] }

/-- `respond(v)`: the command ends with status OK and the value `v` (00_scope.md R9). -/
def respond (v : DWord) (s : State) : Host.Outcome State Fault Refusal :=
  .next (s.deliver ⟨.ok, v⟩)

/-- `raise <Status>`: the command ends with that status and value 0 (00_scope.md R9). This is all there is to
taking an exception: nothing is saved, no mode is switched, control goes to the next command
(60_exceptions.md R256). -/
def raise (st : Status) (s : State) : Host.Outcome State Fault Refusal :=
  .next (s.deliver ⟨st, 0⟩)

/-- The word of the next command, if the host has given one (10_state.md R45). -/
def State.fetch (s : State) : Option DWord := s.program[s.pc]?

/-- What a failed DECODE leaves of the record registers: free values (44_decode.md R222). -/
def freeHeader (n : Nat) : HeaderRecord where
  sport := BitVec.ofNat 16 (Config.freeReg .sport n)
  dport := BitVec.ofNat 16 (Config.freeReg .dport n)
  seq := BitVec.ofNat 32 (Config.freeReg .seq n)
  ack := BitVec.ofNat 32 (Config.freeReg .ack n)
  hlw := BitVec.ofNat 4 (Config.freeReg .hlw n)
  flags := BitVec.ofNat 9 (Config.freeReg .flags n)
  win := BitVec.ofNat 16 (Config.freeReg .win n)
  csum := BitVec.ofNat 16 (Config.freeReg .csum n)
  urg := BitVec.ofNat 16 (Config.freeReg .urg n)

/-- What a failed DECODE leaves of the length registers: free values in their legal ranges, `LR.OPTLEN` 0 to 40 and
`LR.PAYLEN` 0 when `LR.PAYVALID` is 0 (93_implementation_defined.md U9); `LR.WLEN` is unchanged (44_decode.md R222). -/
def freeLengths (n : Nat) (l : LengthRegs) : LengthRegs where
  optlen := BitVec.ofNat 6 (Config.freeReg .optlen n % (Config.optMax + 1))
  paylen :=
    if BitVec.ofNat 1 (Config.freeReg .payvalid n) = 1 then BitVec.ofNat 16 (Config.freeReg .paylen n) else 0
  payvalid := BitVec.ofNat 1 (Config.freeReg .payvalid n)
  wlen := l.wlen

/-- The record, OPT and PAY made unspecified by a new draw (44_decode.md R222; log entry 2). -/
def State.unspecifyRecord (s : State) : State :=
  { s with
    hr := freeHeader (s.draws + 1)
    lr := freeLengths (s.draws + 1) s.lr
    opt := Memory.unwritten (s.draws + 1)
    pay := Memory.unwritten (s.draws + 1)
    draws := s.draws + 1 }

end Sys2Proof.Machine
end

