-- ==== Sys2Proof/Machine/Flags.lean ====
section
/-! DEFINITION. The flags/length word, the header-length arithmetic and the checksum arithmetic. The block has no
status flags or condition codes (10_state.md R42): its nine control flags are a field of the header. -/

namespace Sys2Proof.Machine

/-! ### The flags/length word (30_encoding.md R82) -/

/-- Encode: `HR.FLAGS | (h << 12)`; bits 11:9 are 0 (30_encoding.md R82). -/
def packFlagsLength (flags : BitVec 9) (h : BitVec 4) : Half := flags.setWidth 16 ||| (h.setWidth 16 <<< 12)

/-- Decode: the header length is bits 15:12 (30_encoding.md R82; 44_decode.md R215). -/
def unpackLength (w : Half) : BitVec 4 := w.extractLsb' 12 4

/-- Decode: the control flags are bits 8:0; bits 11:9 are dropped (30_encoding.md R82; 44_decode.md R215). -/
def unpackFlags (w : Half) : BitVec 9 := w.extractLsb' 0 9

/-! ### Header length (40_field_access.md R122; 42_encode.md R171) -/

/-- `(20 + n + 3) >> 2`, the length SET_OPTS derives (40_field_access.md R122). -/
def derivedLength (n : Nat) : BitVec 4 := BitVec.ofNat 4 ((20 + n + 3) >>> 2)

/-- The effective header length of ENCODE: 5 when `HR.HLW` is 0 (42_encode.md R171). -/
def effectiveLength (hlw : BitVec 4) : BitVec 4 := if hlw = 0 then 5 else hlw

/-- The bytes of the options region a header length declares, `4*h - 20` (30_encoding.md R83); 0 for `h = 5`. -/
def optionsRegion (h : BitVec 4) : Nat := 4 * h.toNat - Config.baseLen

/-! ### The Internet checksum (43_checksum.md) -/

/-- The pseudo-header contribution of a parent to a sum over `len` bytes; none without a parent (43_checksum.md R191). -/
def pseudoHeaderSum (p : ParentContext) (len : Nat) : Nat :=
  if p.valid = 1 then
    (p.src.extractLsb' 16 16).toNat + (p.src.extractLsb' 0 16).toNat +
      ((p.dst.extractLsb' 16 16).toNat + (p.dst.extractLsb' 0 16).toNat) +
      p.proto.toNat + len % 2 ^ 16
  else 0

/-- The sum of the 16-bit big-endian words, a last odd byte being the high byte of a padding word
(43_checksum.md R192, R193). -/
def wordSum : List Byte → Nat
  | [] => 0
  | [b] => b.toNat <<< 8
  | hi :: lo :: rest => (hi ++ lo : Half).toNat + wordSum rest

/-- One pass of the fold (43_checksum.md R194). -/
def foldPass (acc : Nat) : Nat := (acc >>> 16) + acc % 2 ^ 16

/-- `while (acc >> 16) != 0: acc = (acc >> 16) + (acc & 0xFFFF)`, for at most `fuel` passes. -/
def foldLoop : Nat → Nat → Nat
  | 0, acc => acc
  | fuel + 1, acc => if acc >>> 16 = 0 then acc else foldLoop fuel (foldPass acc)

/-- The fold, repeated until the sum fits 16 bits (43_checksum.md R194; 90_conflicts.md C1). Every pass that runs
makes the sum smaller, so as many passes as the sum itself are the whole loop. -/
def foldCarries (acc : Nat) : Nat := foldLoop acc acc

/-- The accumulator of R190 before the fold. It stays below 2^32 for every sequence of at most 65535 bytes
(43_checksum.md R196), so a natural number holds it. -/
def checksumAcc (p : ParentContext) (bs : List Byte) : Nat := pseudoHeaderSum p bs.length + wordSum bs

/-- `Checksum(pv, src, dst, proto, B)` (43_checksum.md R190): the one's complement of the folded sum (R195). -/
def checksum (p : ParentContext) (bs : List Byte) : Half :=
  ~~~ (BitVec.ofNat 16 (foldCarries (checksumAcc p bs)))

end Sys2Proof.Machine
end

