-- ==== Sys2Proof/Machine/Operands.lean ====
section
/-! DEFINITION. The operand forms: how a command takes its operand from `imm` (30_encoding.md R88, R93) and its
address or window from `a` (20_memory.md R67, R68), with the status where it does not fit (R90 steps 3 and 4). -/

namespace Sys2Proof.Machine

/-- An `n`-bit operand is `imm[n-1:0]` and requires the bits above to be 0, else the command ends with
OperandOutOfRange and changes nothing (30_encoding.md R88; 60_exceptions.md R250). With `n = 0` the command has no
operand and `imm` must be 0. -/
def withOperand (n : Nat) (imm : Word) (s : State)
    (run : BitVec n → Host.Outcome State Fault Refusal) : Host.Outcome State Fault Refusal :=
  if imm.toNat < 2 ^ n then run (imm.setWidth n) else raise .operandOutOfRange s

/-- A host access to address `a` of a space: outside the space the command ends with AddressOutOfRange and accesses
nothing (20_memory.md R67; 60_exceptions.md R251). -/
def withAddress (sp : Space) (a : Half) (s : State)
    (run : Nat → Host.Outcome State Fault Refusal) : Host.Outcome State Fault Refusal :=
  if a.toNat < sp.size then run a.toNat else raise .addressOutOfRange s

/-- A window `WIRE[off .. off+len-1]`: past the end of WIRE the command ends with AddressOutOfRange and changes
nothing; a window does not wrap (20_memory.md R68; 60_exceptions.md R251). -/
def withWindow (a len : Half) (s : State)
    (run : Nat → Nat → Host.Outcome State Fault Refusal) : Host.Outcome State Fault Refusal :=
  if a.toNat + len.toNat ≤ Config.wireSize then run a.toNat len.toNat else raise .addressOutOfRange s

/-- A setter: the operand is written by `write` and the response is `(OK, 0)` (40_field_access.md R110). -/
def setRegister (n : Nat) (imm : Word) (s : State) (write : BitVec n → State) :
    Host.Outcome State Fault Refusal :=
  withOperand n imm s fun v => respond 0 (write v)

/-- A getter: it has no operand, writes nothing and responds with the register's value zero-extended to 64 bits
(40_field_access.md R110). -/
def getRegister {n : Nat} (imm : Word) (s : State) (v : BitVec n) : Host.Outcome State Fault Refusal :=
  withOperand 0 imm s fun _ => respond (v.setWidth 64) s

end Sys2Proof.Machine
end

