-- ==== Sys2Proof/Machine/Codec.lean ====
section
/-! DEFINITION. The layout engine and the checksum command: ENCODE (42_encode.md), DECODE (44_decode.md) and CKSUM
(43_checksum.md). -/

namespace Sys2Proof.Machine

/-! ### ENCODE -/

/-- The payload length ENCODE uses: 0 when no payload is attached (42_encode.md R173). -/
def State.payloadLength (s : State) : Nat := if s.lr.payvalid = 1 then s.lr.paylen.toNat else 0

/-- The total length `4*h + plen` (42_encode.md R174). -/
def State.totalLength (s : State) (h : BitVec 4) : Nat := 4 * h.toNat + s.payloadLength

/-- The two layouts ENCODE refuses: `h` below 5, or options longer than the region the nibble declares
(42_encode.md R172). -/
def layoutBroken (h : BitVec 4) (optlen : BitVec 6) : Bool :=
  decide (h.toNat < Config.hlwMin) ||
    (decide (Config.hlwMin < h.toNat) && decide (optionsRegion h < optlen.toNat))

/-- The 20 base bytes, in the order of 42_encode.md R175, the checksum field as stored. -/
def baseBytes (r : HeaderRecord) (h : BitVec 4) : List Byte :=
  be16 r.sport ++ be16 r.dport ++ be32 r.seq ++ be32 r.ack ++ be16 (packFlagsLength r.flags h) ++
    be16 r.win ++ be16 r.csum ++ be16 r.urg

/-- The options region: the options bytes, then zero padding; nothing when `h` is 5 (42_encode.md R175, R176). -/
def State.optionBytes (s : State) (h : BitVec 4) : List Byte :=
  if Config.hlwMin < h.toNat then
    s.readBytes .opt 0 s.lr.optlen.toNat ++ List.replicate (optionsRegion h - s.lr.optlen.toNat) 0
  else []

/-- The byte sequence `B` of 42_encode.md R170 before the checksum is filled in. -/
def State.assembled (s : State) (h : BitVec 4) : List Byte :=
  baseBytes s.hr h ++ s.optionBytes h ++ s.readBytes .pay 0 s.payloadLength

/-- `B[16] = c[15:8]; B[17] = c[7:0]` (42_encode.md R178). -/
def patchChecksum (bs : List Byte) (c : Half) : List Byte :=
  (bs.set 16 (c.extractLsb' 8 8)).set 17 (c.extractLsb' 0 8)

/-- The write-back into the parent: `PC.PROTO <- PROTO_ID` when there is one (42_encode.md R177). -/
def State.writeBackProtocol (s : State) : State :=
  if s.parent.valid = 1 then s.setParent { s.parent with proto := s.params.protoId } else s

/-- The checksum field ENCODE emits: the stored one when it is not 0 (42_encode.md R179), else the computed one, over
the assembled bytes and the parent after the write-back (42_encode.md R177, R178). -/
def State.emittedChecksum (s : State) (h : BitVec 4) : Half :=
  if s.hr.csum = 0 then checksum s.writeBackProtocol.parent (s.assembled h) else s.hr.csum

/-- The bytes ENCODE writes to WIRE (42_encode.md R178, R179). -/
def State.encodedBytes (s : State) (h : BitVec 4) : List Byte :=
  if s.hr.csum = 0 then patchChecksum (s.assembled h) (s.emittedChecksum h) else s.assembled h

/-- What ENCODE writes to the record: nothing, or with `ENC_WRITEBACK` the length and the checksum (42_encode.md R181). -/
def State.writeBackRecord (s : State) (h : BitVec 4) (c : Half) : State :=
  if s.params.encWriteback then s.setHr { s.hr with hlw := h, csum := c } else s

/-- The state a successful ENCODE leaves, but for the response (42_encode.md R177, R180, R181). -/
def State.encoded (s : State) (h : BitVec 4) : State :=
  let t := s.writeBackProtocol.store .wire 0 (s.encodedBytes h)
  (t.setLr { t.lr with wlen := BitVec.ofNat 16 (s.totalLength h) }).writeBackRecord h (s.emittedChecksum h)

/-- ENCODE (42_encode.md R170). -/
def execEncode (imm : Word) (s : State) : Host.Outcome State Fault Refusal :=
  withOperand 0 imm s fun _ =>
    let h := effectiveLength s.hr.hlw
    if layoutBroken h s.lr.optlen then raise .layoutInvariant s
    else if Config.totalMax < s.totalLength h then raise .lengthOverflow s
    else respond (BitVec.ofNat 64 (s.totalLength h)) (s.encoded h)

/-! ### DECODE -/

/-- DECODE ends with an error after it has begun on the record: the record, OPT and PAY are unspecified
(44_decode.md R222). -/
def failDecode (st : Status) (s : State) : Host.Outcome State Fault Refusal := raise st s.unspecifyRecord

/-- The number of option bytes DECODE takes: what the nibble declares, clamped to the window (44_decode.md R218). -/
def optionsTaken (h : BitVec 4) (len : Nat) : Nat :=
  if Config.hlwMin < h.toNat then min (optionsRegion h) (len - Config.baseLen) else 0

/-- The record registers read from the window at `off` (44_decode.md R213 to R217). -/
def State.windowHeader (s : State) (off : Nat) : HeaderRecord where
  sport := s.read16 .wire off
  dport := s.read16 .wire (off + 2)
  seq := s.read32 .wire (off + 4)
  ack := s.read32 .wire (off + 8)
  hlw := unpackLength (s.read16 .wire (off + 12))
  flags := unpackFlags (s.read16 .wire (off + 12))
  win := s.read16 .wire (off + 14)
  csum := s.read16 .wire (off + 16)
  urg := s.read16 .wire (off + 18)

/-- The record, options and payload of a window populated in place (44_decode.md R210, R218, R220). -/
def State.populate (s : State) (off len : Nat) : State :=
  let h := s.windowHeader off
  let n := optionsTaken h.hlw len
  let m := len - Config.baseLen - n
  (((s.setHr h).store .opt 0 (s.readBytes .wire (off + Config.baseLen) n)).store .pay 0
      (s.readBytes .wire (off + Config.baseLen + n) m)).setLr
    { s.lr with optlen := BitVec.ofNat 6 n, paylen := BitVec.ofNat 16 m, payvalid := 1 }

/-- DECODE (44_decode.md R210), the checks in the order of 60_exceptions.md R255. -/
def execDecode (a : Half) (imm : Word) (s : State) : Host.Outcome State Fault Refusal :=
  withOperand 16 imm s fun len16 =>
    withWindow a len16 s fun off len =>
      if len < 14 then failDecode .bufferUnderrun s
      else if (unpackLength (s.read16 .wire (off + 12))).toNat < Config.hlwMin then failDecode .headerTooShort s
      else if len < Config.baseLen then failDecode .bufferUnderrun s
      else respond 0 (s.clearRecord.populate off len)

/-! ### CKSUM -/

/-- CKSUM: the checksum engine over a window of WIRE, with the parent context as it stands; it writes nothing
(43_checksum.md R198). -/
def execCksum (a : Half) (imm : Word) (s : State) : Host.Outcome State Fault Refusal :=
  withOperand 16 imm s fun len16 =>
    withWindow a len16 s fun off len =>
      respond ((checksum s.parent (s.readBytes .wire off len)).setWidth 64) s

end Sys2Proof.Machine
end

