-- ==== Sys2Proof/Machine/HostMemory.lean ====
section
/-! DEFINITION. The host's access to the memories (41_memory_access.md). -/

namespace Sys2Proof.Machine

/-- STB: store one byte, and nothing else (41_memory_access.md R161). -/
def execStb (sp : Space) (a : Half) (imm : Word) (s : State) : Host.Outcome State Fault Refusal :=
  withOperand 8 imm s fun b => withAddress sp a s fun addr => respond 0 (s.store sp addr [b])

/-- LDB: load one byte, zero-extended; nothing changes (41_memory_access.md R162). -/
def execLdb (sp : Space) (a : Half) (imm : Word) (s : State) : Host.Outcome State Fault Refusal :=
  withOperand 0 imm s fun _ =>
    withAddress sp a s fun addr => respond ((s.readByte sp addr).setWidth 64) s

end Sys2Proof.Machine
end

