-- ==== Sys2Proof/Machine/Housekeeping.lean ====
section
/-! DEFINITION. The housekeeping commands (40_field_access.md, section 1). -/

namespace Sys2Proof.Machine

/-- CLEAR: the record is made empty (40_field_access.md R111). -/
def execClear (imm : Word) (s : State) : Host.Outcome State Fault Refusal :=
  withOperand 0 imm s fun _ => respond 0 s.clearRecord

/-- RST_CSUM: `HR.CSUM <- 0` (40_field_access.md R112). -/
def execRstCsum (imm : Word) (s : State) : Host.Outcome State Fault Refusal :=
  withOperand 0 imm s fun _ => respond 0 (s.setHr { s.hr with csum := 0 })

end Sys2Proof.Machine
end

