-- ==== Sys2Proof/Machine/OptionExtractor.lean ====
section
/-! DEFINITION. The option field extractor: read-only queries at fixed indices of the options
(45_option_extractor.md R230, R236; 30_encoding.md R100). -/

namespace Sys2Proof.Machine

/-- A query that reads the options up to and including index `last`: OptionAccessOutOfRange, and nothing changed, when
that index is at or beyond `LR.OPTLEN` (45_option_extractor.md R230; 60_exceptions.md R246). -/
def withOptionIndex (last : Nat) (s : State) (v : DWord) : Host.Outcome State Fault Refusal :=
  if last < s.lr.optlen.toNat then respond v s else raise .optionAccessOutOfRange s

/-- The return code of a subtype byte: 0 capability, 1 join, -1 unknown (45_option_extractor.md R232). -/
def subtypeCode (b : Byte) : DWord := if b = 0x00 then 0 else if b = 0x10 then 1 else (-1 : BitVec 64)

/-- MP_ENABLED: 1 iff there are more than 20 option bytes and the byte at index 20 is 0x1E (45_option_extractor.md R231). -/
def execMpEnabled (imm : Word) (s : State) : Host.Outcome State Fault Refusal :=
  withOperand 0 imm s fun _ =>
    if 20 < s.lr.optlen.toNat then respond (if s.readByte .opt 20 = 0x1E then 1 else 0) s else respond 0 s

/-- MP_SUBTYPE: the code of the byte at index 22 (45_option_extractor.md R232). -/
def execMpSubtype (imm : Word) (s : State) : Host.Outcome State Fault Refusal :=
  withOperand 0 imm s fun _ => withOptionIndex 22 s (subtypeCode (s.readByte .opt 22))

/-- MP_KEY: the eight bytes at indices 24 to 31 (45_option_extractor.md R233). -/
def execMpKey (imm : Word) (s : State) : Host.Outcome State Fault Refusal :=
  withOperand 0 imm s fun _ => withOptionIndex 31 s (s.read64 .opt 24)

/-- MP_TOKEN: the four bytes at indices 24 to 27, zero-extended (45_option_extractor.md R234). -/
def execMpToken (imm : Word) (s : State) : Host.Outcome State Fault Refusal :=
  withOperand 0 imm s fun _ => withOptionIndex 27 s ((s.read32 .opt 24).setWidth 64)

end Sys2Proof.Machine
end

