-- ==== Sys2Proof/Machine/ParentContext.lean ====
section
/-! DEFINITION. The parent context commands (40_field_access.md, section 4). -/

namespace Sys2Proof.Machine

/-- SET_PSRC: `PC.SRC <- imm[31:0]` (40_field_access.md R138). -/
def execSetPsrc (imm : Word) (s : State) : Host.Outcome State Fault Refusal :=
  setRegister 32 imm s fun v => s.setParent { s.parent with src := v }

/-- SET_PDST: `PC.DST <- imm[31:0]` (40_field_access.md R139). -/
def execSetPdst (imm : Word) (s : State) : Host.Outcome State Fault Refusal :=
  setRegister 32 imm s fun v => s.setParent { s.parent with dst := v }

/-- SET_PPROTO: `PC.PROTO <- imm[7:0]` (40_field_access.md R140). -/
def execSetPproto (imm : Word) (s : State) : Host.Outcome State Fault Refusal :=
  setRegister 8 imm s fun v => s.setParent { s.parent with proto := v }

/-- SET_PVALID: `PC.VALID <- imm[0:0]` (40_field_access.md R141). -/
def execSetPvalid (imm : Word) (s : State) : Host.Outcome State Fault Refusal :=
  setRegister 1 imm s fun v => s.setParent { s.parent with valid := v }

/-- GET_PSRC responds with `PC.SRC` (40_field_access.md R142). -/
def execGetPsrc (imm : Word) (s : State) : Host.Outcome State Fault Refusal :=
  getRegister imm s s.parent.src

/-- GET_PDST responds with `PC.DST` (40_field_access.md R143). -/
def execGetPdst (imm : Word) (s : State) : Host.Outcome State Fault Refusal :=
  getRegister imm s s.parent.dst

/-- GET_PPROTO responds with `PC.PROTO` (40_field_access.md R144). -/
def execGetPproto (imm : Word) (s : State) : Host.Outcome State Fault Refusal :=
  getRegister imm s s.parent.proto

/-- GET_PVALID responds with `PC.VALID` (40_field_access.md R145). -/
def execGetPvalid (imm : Word) (s : State) : Host.Outcome State Fault Refusal :=
  getRegister imm s s.parent.valid

end Sys2Proof.Machine
end

