-- ==== Sys2Proof/Machine/RecordReads.lean ====
section
/-! DEFINITION. The record reads (40_field_access.md, section 3). -/

namespace Sys2Proof.Machine

/-- GET_SPORT responds with `HR.SPORT` (40_field_access.md R125). -/
def execGetSport (imm : Word) (s : State) : Host.Outcome State Fault Refusal :=
  getRegister imm s s.hr.sport

/-- GET_DPORT responds with `HR.DPORT` (40_field_access.md R126). -/
def execGetDport (imm : Word) (s : State) : Host.Outcome State Fault Refusal :=
  getRegister imm s s.hr.dport

/-- GET_SEQ responds with `HR.SEQ` (40_field_access.md R127). -/
def execGetSeq (imm : Word) (s : State) : Host.Outcome State Fault Refusal :=
  getRegister imm s s.hr.seq

/-- GET_ACK responds with `HR.ACK` (40_field_access.md R128). -/
def execGetAck (imm : Word) (s : State) : Host.Outcome State Fault Refusal :=
  getRegister imm s s.hr.ack

/-- GET_HLW responds with `HR.HLW` (40_field_access.md R129). -/
def execGetHlw (imm : Word) (s : State) : Host.Outcome State Fault Refusal :=
  getRegister imm s s.hr.hlw

/-- GET_FLAGS responds with `HR.FLAGS` (40_field_access.md R130). -/
def execGetFlags (imm : Word) (s : State) : Host.Outcome State Fault Refusal :=
  getRegister imm s s.hr.flags

/-- GET_WIN responds with `HR.WIN` (40_field_access.md R131). -/
def execGetWin (imm : Word) (s : State) : Host.Outcome State Fault Refusal :=
  getRegister imm s s.hr.win

/-- GET_CSUM responds with `HR.CSUM` (40_field_access.md R132). -/
def execGetCsum (imm : Word) (s : State) : Host.Outcome State Fault Refusal :=
  getRegister imm s s.hr.csum

/-- GET_URG responds with `HR.URG` (40_field_access.md R133). -/
def execGetUrg (imm : Word) (s : State) : Host.Outcome State Fault Refusal :=
  getRegister imm s s.hr.urg

/-- GET_OPTLEN responds with `LR.OPTLEN` (40_field_access.md R134). -/
def execGetOptlen (imm : Word) (s : State) : Host.Outcome State Fault Refusal :=
  getRegister imm s s.lr.optlen

/-- GET_PAYLEN responds with `LR.PAYLEN` (40_field_access.md R135). -/
def execGetPaylen (imm : Word) (s : State) : Host.Outcome State Fault Refusal :=
  getRegister imm s s.lr.paylen

/-- GET_PAYVALID responds with `LR.PAYVALID` (40_field_access.md R136). -/
def execGetPayvalid (imm : Word) (s : State) : Host.Outcome State Fault Refusal :=
  getRegister imm s s.lr.payvalid

/-- GET_WLEN responds with `LR.WLEN` (40_field_access.md R137). -/
def execGetWlen (imm : Word) (s : State) : Host.Outcome State Fault Refusal :=
  getRegister imm s s.lr.wlen

end Sys2Proof.Machine
end

