-- ==== Sys2Proof/Machine/RecordWrites.lean ====
section
/-! DEFINITION. The record writes (40_field_access.md, section 2). -/

namespace Sys2Proof.Machine

/-- SET_SPORT: `HR.SPORT <- imm[15:0]` (40_field_access.md R113). -/
def execSetSport (imm : Word) (s : State) : Host.Outcome State Fault Refusal :=
  setRegister 16 imm s fun v => s.setHr { s.hr with sport := v }

/-- SET_DPORT: `HR.DPORT <- imm[15:0]` (40_field_access.md R114). -/
def execSetDport (imm : Word) (s : State) : Host.Outcome State Fault Refusal :=
  setRegister 16 imm s fun v => s.setHr { s.hr with dport := v }

/-- SET_SEQ: `HR.SEQ <- imm[31:0]` (40_field_access.md R115). -/
def execSetSeq (imm : Word) (s : State) : Host.Outcome State Fault Refusal :=
  setRegister 32 imm s fun v => s.setHr { s.hr with seq := v }

/-- SET_ACK: `HR.ACK <- imm[31:0]` (40_field_access.md R116). -/
def execSetAck (imm : Word) (s : State) : Host.Outcome State Fault Refusal :=
  setRegister 32 imm s fun v => s.setHr { s.hr with ack := v }

/-- SET_HLW: `HR.HLW <- imm[3:0]` (40_field_access.md R117). -/
def execSetHlw (imm : Word) (s : State) : Host.Outcome State Fault Refusal :=
  setRegister 4 imm s fun v => s.setHr { s.hr with hlw := v }

/-- SET_FLAGS: `HR.FLAGS <- imm[8:0]` (40_field_access.md R118). -/
def execSetFlags (imm : Word) (s : State) : Host.Outcome State Fault Refusal :=
  setRegister 9 imm s fun v => s.setHr { s.hr with flags := v }

/-- SET_WIN: `HR.WIN <- imm[15:0]` (40_field_access.md R119). -/
def execSetWin (imm : Word) (s : State) : Host.Outcome State Fault Refusal :=
  setRegister 16 imm s fun v => s.setHr { s.hr with win := v }

/-- SET_CSUM: `HR.CSUM <- imm[15:0]` (40_field_access.md R120). -/
def execSetCsum (imm : Word) (s : State) : Host.Outcome State Fault Refusal :=
  setRegister 16 imm s fun v => s.setHr { s.hr with csum := v }

/-- SET_URG: `HR.URG <- imm[15:0]` (40_field_access.md R121). -/
def execSetUrg (imm : Word) (s : State) : Host.Outcome State Fault Refusal :=
  setRegister 16 imm s fun v => s.setHr { s.hr with urg := v }

/-- SET_OPTS: the options become `OPT[0 .. n-1]` and the header length is derived from `n`; `n` above 40 is
OptionsTooLong and changes nothing (40_field_access.md R122). -/
def execSetOpts (imm : Word) (s : State) : Host.Outcome State Fault Refusal :=
  withOperand 6 imm s fun n =>
    if Config.optMax < n.toNat then raise .optionsTooLong s
    else respond 0 ((s.setLr { s.lr with optlen := n }).setHr { s.hr with hlw := derivedLength n.toNat })

/-- SET_PAY: a payload of `n` bytes is attached (40_field_access.md R123). -/
def execSetPay (imm : Word) (s : State) : Host.Outcome State Fault Refusal :=
  setRegister 16 imm s fun n => s.setLr { s.lr with payvalid := 1, paylen := n }

/-- CLR_PAY: the payload is detached (40_field_access.md R124). -/
def execClrPay (imm : Word) (s : State) : Host.Outcome State Fault Refusal :=
  withOperand 0 imm s fun _ => respond 0 (s.setLr { s.lr with payvalid := 0, paylen := 0 })

end Sys2Proof.Machine
end

