-- ==== Sys2Proof/Machine/Dispatch.lean ====
section
/-! DEFINITION. One arm per command: the meaning it runs (30_encoding.md R92). -/

namespace Sys2Proof.Machine

def exec (i : Instr) (s : State) : Host.Outcome State Fault Refusal :=
  match i with
  | .clear imm => Sys2Proof.Machine.execClear imm s
  | .rstCsum imm => Sys2Proof.Machine.execRstCsum imm s
  | .setSport imm => Sys2Proof.Machine.execSetSport imm s
  | .setDport imm => Sys2Proof.Machine.execSetDport imm s
  | .setSeq imm => Sys2Proof.Machine.execSetSeq imm s
  | .setAck imm => Sys2Proof.Machine.execSetAck imm s
  | .setHlw imm => Sys2Proof.Machine.execSetHlw imm s
  | .setFlags imm => Sys2Proof.Machine.execSetFlags imm s
  | .setWin imm => Sys2Proof.Machine.execSetWin imm s
  | .setCsum imm => Sys2Proof.Machine.execSetCsum imm s
  | .setUrg imm => Sys2Proof.Machine.execSetUrg imm s
  | .setOpts imm => Sys2Proof.Machine.execSetOpts imm s
  | .setPay imm => Sys2Proof.Machine.execSetPay imm s
  | .clrPay imm => Sys2Proof.Machine.execClrPay imm s
  | .getSport imm => Sys2Proof.Machine.execGetSport imm s
  | .getDport imm => Sys2Proof.Machine.execGetDport imm s
  | .getSeq imm => Sys2Proof.Machine.execGetSeq imm s
  | .getAck imm => Sys2Proof.Machine.execGetAck imm s
  | .getHlw imm => Sys2Proof.Machine.execGetHlw imm s
  | .getFlags imm => Sys2Proof.Machine.execGetFlags imm s
  | .getWin imm => Sys2Proof.Machine.execGetWin imm s
  | .getCsum imm => Sys2Proof.Machine.execGetCsum imm s
  | .getUrg imm => Sys2Proof.Machine.execGetUrg imm s
  | .getOptlen imm => Sys2Proof.Machine.execGetOptlen imm s
  | .getPaylen imm => Sys2Proof.Machine.execGetPaylen imm s
  | .getPayvalid imm => Sys2Proof.Machine.execGetPayvalid imm s
  | .getWlen imm => Sys2Proof.Machine.execGetWlen imm s
  | .setPsrc imm => Sys2Proof.Machine.execSetPsrc imm s
  | .setPdst imm => Sys2Proof.Machine.execSetPdst imm s
  | .setPproto imm => Sys2Proof.Machine.execSetPproto imm s
  | .setPvalid imm => Sys2Proof.Machine.execSetPvalid imm s
  | .getPsrc imm => Sys2Proof.Machine.execGetPsrc imm s
  | .getPdst imm => Sys2Proof.Machine.execGetPdst imm s
  | .getPproto imm => Sys2Proof.Machine.execGetPproto imm s
  | .getPvalid imm => Sys2Proof.Machine.execGetPvalid imm s
  | .stb sp a imm => Sys2Proof.Machine.execStb sp a imm s
  | .ldb sp a imm => Sys2Proof.Machine.execLdb sp a imm s
  | .encode imm => Sys2Proof.Machine.execEncode imm s
  | .decode a imm => Sys2Proof.Machine.execDecode a imm s
  | .cksum a imm => Sys2Proof.Machine.execCksum a imm s
  | .mpEnabled imm => Sys2Proof.Machine.execMpEnabled imm s
  | .mpSubtype imm => Sys2Proof.Machine.execMpSubtype imm s
  | .mpKey imm => Sys2Proof.Machine.execMpKey imm s
  | .mpToken imm => Sys2Proof.Machine.execMpToken imm s

end Sys2Proof.Machine
end

