-- ==== Sys2Proof/Machine/Step.lean ====
section
/-! DEFINITION. One step of the machine (10_state.md R45) and the placing of a command where the next step takes it. -/

namespace Sys2Proof.Machine

/-- One step. Where the host has given a next command it runs, an illegal word answering IllegalCommand
(30_encoding.md R96). Where the program has ended the block is idle, which changes nothing (10_state.md R45,
60_exceptions.md R262; log entry 6). A `pc` above the program's length is no state of the block (R45; log entry 7). -/
def step (s : State) : Host.Outcome State Fault Refusal :=
  match s.fetch with
  | some c =>
    match decodeWord c with
    | .command i => exec i s
    | .illegal _ => raise .illegalCommand s
  | none => if s.pc = s.program.length then .next s else .fault .pcPastProgram

/-- `s` with a command word as the host's next command: the low `nbits` bits of `w`, those above being 0. Where the
program is shorter than `pc` it is filled with words of zeros up to it. -/
def State.withFetchWord (s : State) (nbits w : Nat) : State :=
  { s with
    program :=
      s.program.take s.pc ++ List.replicate (s.pc - s.program.length) 0 ++
        BitVec.ofNat 64 (w % 2 ^ nbits) :: s.program.drop (s.pc + 1) }

end Sys2Proof.Machine
end

