-- ==== Sys2Proof/Safety.lean ====
section
/-! DEFINITION. What counts as a good state, in the terms the statements use. -/

namespace Sys2Proof.Machine

/-- The invariant of every reachable state: `pc` never exceeds the program's length (10_state.md R45), `LR.OPTLEN` is
0 to 40 (R30), `LR.PAYLEN` is 0 when `LR.PAYVALID` is 0 (R36), each memory is in its canonical form with every
address inside its space (R44). -/
structure State.Inv (s : State) : Prop where
  pc_le : s.pc ≤ s.program.length
  optlen_le : s.lr.optlen.toNat ≤ Config.optMax
  paylen_zero : s.lr.payvalid = 0 → s.lr.paylen = 0
  mem_wf : ∀ sp, Memory.wf sp (s.mem sp) = true

end Sys2Proof.Machine
end

