-- ==== Sys2Proof/WellFormed.lean ====
section
/-! DEFINITION. When a command is well formed: the operand ranges of 30_encoding.md R93 and the address and window
ranges of 20_memory.md R67 and R68. An ill-formed command still has a meaning: it answers a status other than OK
(60_exceptions.md R245, R250, R251). -/

namespace Sys2Proof

/-- The field `imm` of a command (30_encoding.md R87). -/
def Instr.imm : Instr → Word
  | .clear imm => imm
  | .rstCsum imm => imm
  | .setSport imm => imm
  | .setDport imm => imm
  | .setSeq imm => imm
  | .setAck imm => imm
  | .setHlw imm => imm
  | .setFlags imm => imm
  | .setWin imm => imm
  | .setCsum imm => imm
  | .setUrg imm => imm
  | .setOpts imm => imm
  | .setPay imm => imm
  | .clrPay imm => imm
  | .getSport imm => imm
  | .getDport imm => imm
  | .getSeq imm => imm
  | .getAck imm => imm
  | .getHlw imm => imm
  | .getFlags imm => imm
  | .getWin imm => imm
  | .getCsum imm => imm
  | .getUrg imm => imm
  | .getOptlen imm => imm
  | .getPaylen imm => imm
  | .getPayvalid imm => imm
  | .getWlen imm => imm
  | .setPsrc imm => imm
  | .setPdst imm => imm
  | .setPproto imm => imm
  | .setPvalid imm => imm
  | .getPsrc imm => imm
  | .getPdst imm => imm
  | .getPproto imm => imm
  | .getPvalid imm => imm
  | .stb _ _ imm => imm
  | .ldb _ _ imm => imm
  | .encode imm => imm
  | .decode _ imm => imm
  | .cksum _ imm => imm
  | .mpEnabled imm => imm
  | .mpSubtype imm => imm
  | .mpKey imm => imm
  | .mpToken imm => imm

/-- The operand width `N` of each command; 0 where `imm` must be 0 (30_encoding.md R93). -/
def Instr.operandWidth : Instr → Nat
  | .clear _ => 0
  | .rstCsum _ => 0
  | .setSport _ => 16
  | .setDport _ => 16
  | .setSeq _ => 32
  | .setAck _ => 32
  | .setHlw _ => 4
  | .setFlags _ => 9
  | .setWin _ => 16
  | .setCsum _ => 16
  | .setUrg _ => 16
  | .setOpts _ => 6
  | .setPay _ => 16
  | .clrPay _ => 0
  | .getSport _ => 0
  | .getDport _ => 0
  | .getSeq _ => 0
  | .getAck _ => 0
  | .getHlw _ => 0
  | .getFlags _ => 0
  | .getWin _ => 0
  | .getCsum _ => 0
  | .getUrg _ => 0
  | .getOptlen _ => 0
  | .getPaylen _ => 0
  | .getPayvalid _ => 0
  | .getWlen _ => 0
  | .setPsrc _ => 32
  | .setPdst _ => 32
  | .setPproto _ => 8
  | .setPvalid _ => 1
  | .getPsrc _ => 0
  | .getPdst _ => 0
  | .getPproto _ => 0
  | .getPvalid _ => 0
  | .stb _ _ _ => 8
  | .ldb _ _ _ => 0
  | .encode _ => 0
  | .decode _ _ => 16
  | .cksum _ _ => 16
  | .mpEnabled _ => 0
  | .mpSubtype _ => 0
  | .mpKey _ => 0
  | .mpToken _ => 0

/-- No bit of `imm` is set above the operand width (30_encoding.md R88). -/
def Instr.operandFits (i : Instr) : Bool := i.imm.toNat < 2 ^ i.operandWidth

/-- The window `off`, `len` of DECODE and CKSUM lies inside `WIRE` (20_memory.md R68). -/
def windowFits (a : Half) (imm : Word) : Bool :=
  a.toNat + (imm.setWidth 16).toNat ≤ Config.wireSize

/-- The address or window of a command that has one is inside its space (20_memory.md R67, R68). -/
def Instr.addressFits : Instr → Bool
  | .stb sp a _ => a.toNat < sp.size
  | .ldb sp a _ => a.toNat < sp.size
  | .decode a imm => windowFits a imm
  | .cksum a imm => windowFits a imm
  | .clear _ | .rstCsum _ | .setSport _ | .setDport _ | .setSeq _ | .setAck _ | .setHlw _
  | .setFlags _ | .setWin _ | .setCsum _ | .setUrg _ | .setOpts _ | .setPay _ | .clrPay _
  | .getSport _ | .getDport _ | .getSeq _ | .getAck _ | .getHlw _ | .getFlags _ | .getWin _
  | .getCsum _ | .getUrg _ | .getOptlen _ | .getPaylen _ | .getPayvalid _ | .getWlen _ | .setPsrc _
  | .setPdst _ | .setPproto _ | .setPvalid _ | .getPsrc _ | .getPdst _ | .getPproto _
  | .getPvalid _ | .encode _ | .mpEnabled _ | .mpSubtype _ | .mpKey _ | .mpToken _ => true

/-- The options length of SET_OPTS is 0 to 40 (30_encoding.md R93). -/
def Instr.optionsLengthFits : Instr → Bool
  | .setOpts imm => imm.toNat ≤ Config.optMax
  | .clear _ | .rstCsum _ | .setSport _ | .setDport _ | .setSeq _ | .setAck _ | .setHlw _
  | .setFlags _ | .setWin _ | .setCsum _ | .setUrg _ | .setPay _ | .clrPay _ | .getSport _
  | .getDport _ | .getSeq _ | .getAck _ | .getHlw _ | .getFlags _ | .getWin _ | .getCsum _
  | .getUrg _ | .getOptlen _ | .getPaylen _ | .getPayvalid _ | .getWlen _ | .setPsrc _ | .setPdst _
  | .setPproto _ | .setPvalid _ | .getPsrc _ | .getPdst _ | .getPproto _ | .getPvalid _
  | .stb _ _ _ | .ldb _ _ _ | .encode _ | .decode _ _ | .cksum _ _ | .mpEnabled _ | .mpSubtype _
  | .mpKey _ | .mpToken _ => true

/-- Every range check of R93, R67 and R68 holds. -/
def Instr.wellFormed (i : Instr) : Bool :=
  i.operandFits && i.addressFits && i.optionsLengthFits

end Sys2Proof
end

