-- ==== Sys2Proof/Certificates/Slice0/Obligations.lean ====
section
/-! DEFINITION. The statements for the provers. The first part says, in the terms of the spec's rules and apart from
the meanings, what the statements compare the machine with. -/

namespace Sys2Proof.Claims

open Sys2Proof.Machine

/-- The state after a command that changes nothing but what every command changes: the response is delivered and
`pc` advances by one (10_state.md R45). -/
def answered (s : State) (r : Response) : State :=
  { s with pc := s.pc + 1, responses := s.responses ++ [r] }

/-- A setter of an `n`-bit operand: every value of the width is written by `write` and the response is `(OK, 0)`; an
`imm` with a bit above the width gives OperandOutOfRange and no change (40_field_access.md R110). -/
def WritesOperand (n : Nat) (mk : Word → Instr) (write : BitVec n → State → State) : Prop :=
  (∀ (s : State) (v : BitVec n), exec (mk (v.setWidth 32)) s = .next (answered (write v s) ⟨.ok, 0⟩)) ∧
    ∀ (s : State) (imm : Word), 2 ^ n ≤ imm.toNat → exec (mk imm) s = .next (answered s ⟨.operandOutOfRange, 0⟩)

/-- A setter of a 32-bit operand: every `imm` is a value of the width, so none is out of range; it is written by
`write` and the response is `(OK, 0)` (40_field_access.md R110). -/
def WritesWord (mk : Word → Instr) (write : Word → State → State) : Prop :=
  ∀ (s : State) (v : Word), exec (mk v) s = .next (answered (write v s) ⟨.ok, 0⟩)

/-- A getter: with `imm = 0` it responds with the register's value zero-extended to 64 bits and changes nothing;
with any other `imm` it gives OperandOutOfRange and changes nothing (40_field_access.md R110). -/
def ReadsRegister (mk : Word → Instr) (reg : State → Nat) : Prop :=
  (∀ s : State, ∃ v : DWord, v.toNat = reg s ∧ exec (mk 0) s = .next (answered s ⟨.ok, v⟩)) ∧
    ∀ (s : State) (imm : Word), imm ≠ 0 → exec (mk imm) s = .next (answered s ⟨.operandOutOfRange, 0⟩)

/-- A command with no operand that writes: with `imm = 0` it leaves `write s` and responds `(OK, 0)`; with any other
`imm` it gives OperandOutOfRange and changes nothing. -/
def WritesWithoutOperand (mk : Word → Instr) (write : State → State) : Prop :=
  (∀ s : State, exec (mk 0) s = .next (answered (write s) ⟨.ok, 0⟩)) ∧
    ∀ (s : State) (imm : Word), imm ≠ 0 → exec (mk imm) s = .next (answered s ⟨.operandOutOfRange, 0⟩)

/-- `t` differs from `s` in the bytes of the memories, in `pc` and in the responses only. -/
def SameRegisters (s t : State) : Prop :=
  t.hr = s.hr ∧ t.lr = s.lr ∧ t.parent = s.parent ∧ t.program = s.program ∧ t.params = s.params ∧ t.draws = s.draws

/-! ### ENCODE, from 42_encode.md R171 to R175 and 30_encoding.md R81, R82 -/

/-- The effective header length `h` (42_encode.md R171). -/
def headerLength (s : State) : Nat := if s.hr.hlw.toNat = 0 then 5 else s.hr.hlw.toNat

/-- `plen` (42_encode.md R173). -/
def payloadLength (s : State) : Nat := if s.lr.payvalid.toNat = 1 then s.lr.paylen.toNat else 0

/-- `total` (42_encode.md R174). -/
def totalLength (s : State) : Nat := 4 * headerLength s + payloadLength s

/-- The two layouts ENCODE refuses (42_encode.md R172). -/
def badLayout (s : State) : Prop :=
  headerLength s < 5 ∨ (5 < headerLength s ∧ 4 * headerLength s - 20 < s.lr.optlen.toNat)

/-- ENCODE succeeds (42_encode.md R172, R174). -/
def encodable (s : State) : Prop := ¬ badLayout s ∧ totalLength s ≤ 65535

/-- The byte at offset `k` of the header and payload on the wire, with the checksum field `c`: the table of
30_encoding.md R81, the bytes of the flags/length word of R82, the padding of R83. -/
def layoutByte (s : State) (c : Half) (k : Nat) : Byte :=
  match k with
  | 0 => s.hr.sport.extractLsb' 8 8
  | 1 => s.hr.sport.extractLsb' 0 8
  | 2 => s.hr.dport.extractLsb' 8 8
  | 3 => s.hr.dport.extractLsb' 0 8
  | 4 => s.hr.seq.extractLsb' 24 8
  | 5 => s.hr.seq.extractLsb' 16 8
  | 6 => s.hr.seq.extractLsb' 8 8
  | 7 => s.hr.seq.extractLsb' 0 8
  | 8 => s.hr.ack.extractLsb' 24 8
  | 9 => s.hr.ack.extractLsb' 16 8
  | 10 => s.hr.ack.extractLsb' 8 8
  | 11 => s.hr.ack.extractLsb' 0 8
  | 12 => BitVec.ofNat 4 (headerLength s) ++ (0 : BitVec 3) ++ s.hr.flags.extractLsb' 8 1
  | 13 => s.hr.flags.extractLsb' 0 8
  | 14 => s.hr.win.extractLsb' 8 8
  | 15 => s.hr.win.extractLsb' 0 8
  | 16 => c.extractLsb' 8 8
  | 17 => c.extractLsb' 0 8
  | 18 => s.hr.urg.extractLsb' 8 8
  | 19 => s.hr.urg.extractLsb' 0 8
  | k =>
    if k < 4 * headerLength s then
      if k < 20 + s.lr.optlen.toNat then s.readByte .opt (k - 20) else 0
    else s.readByte .pay (k - 4 * headerLength s)

/-- The whole header and payload with the checksum field `c`. -/
def layoutBytes (s : State) (c : Half) : List Byte := (List.range (totalLength s)).map (layoutByte s c)

/-- The parent after the write-back (42_encode.md R177). -/
def parentAfter (s : State) : ParentContext :=
  if s.parent.valid.toNat = 1 then { s.parent with proto := s.params.protoId } else s.parent

/-- The checksum field on the wire (42_encode.md R178, R179). -/
def wireChecksum (s : State) : Half :=
  if s.hr.csum.toNat = 0 then checksum (parentAfter s) (layoutBytes s 0) else s.hr.csum

/-! ### DECODE, from 44_decode.md -/

/-- `BE16(W, i)` as a number (00_scope.md R9). -/
def be16At (s : State) (a : Nat) : Nat :=
  (s.readByte .wire a).toNat * 2 ^ 8 + (s.readByte .wire (a + 1)).toNat

/-- `BE32(W, i)` as a number (00_scope.md R9). -/
def be32At (s : State) (a : Nat) : Nat := be16At s a * 2 ^ 16 + be16At s (a + 2)

/-- The header-length nibble of the window at `off` (44_decode.md R215). -/
def nibbleAt (s : State) (off : Nat) : Nat := be16At s (off + 12) / 2 ^ 12

/-- The number of option bytes taken (44_decode.md R218). -/
def optionsCount (s : State) (off len : Nat) : Nat :=
  if 5 < nibbleAt s off then min (4 * nibbleAt s off - 20) (len - 20) else 0

/-! ### The statuses a command can end with, and the register map -/

/-- The column "raised by" of 60_exceptions.md R242, for the commands; IllegalCommand is raised at decode. -/
def raisedBy (i : Instr) : Status → Prop
  | .ok => True
  | .headerTooShort => ∃ a imm, i = .decode a imm
  | .bufferUnderrun => ∃ a imm, i = .decode a imm
  | .optionsTooLong => ∃ imm, i = .setOpts imm
  | .optionAccessOutOfRange => ∃ imm, i = .mpSubtype imm ∨ i = .mpKey imm ∨ i = .mpToken imm
  | .layoutInvariant => ∃ imm, i = .encode imm
  | .lengthOverflow => ∃ imm, i = .encode imm
  | .operandOutOfRange => i.operandWidth < 32
  | .addressOutOfRange => ∃ sp a imm, i = .stb sp a imm ∨ i = .ldb sp a imm ∨ i = .decode a imm ∨ i = .cksum a imm
  | .illegalCommand => False

/-- The registers of 10_state.md R38. -/
inductive Reg where
  | sport
  | dport
  | seq
  | ack
  | hlw
  | flags
  | win
  | csum
  | urg
  | optlen
  | paylen
  | payvalid
  | wlen
  | pvalid
  | psrc
  | pdst
  | pproto
  deriving DecidableEq, Repr

/-- The value of a register. -/
def Reg.value (s : State) : Reg → Nat
  | .sport => s.hr.sport.toNat
  | .dport => s.hr.dport.toNat
  | .seq => s.hr.seq.toNat
  | .ack => s.hr.ack.toNat
  | .hlw => s.hr.hlw.toNat
  | .flags => s.hr.flags.toNat
  | .win => s.hr.win.toNat
  | .csum => s.hr.csum.toNat
  | .urg => s.hr.urg.toNat
  | .optlen => s.lr.optlen.toNat
  | .paylen => s.lr.paylen.toNat
  | .payvalid => s.lr.payvalid.toNat
  | .wlen => s.lr.wlen.toNat
  | .pvalid => s.parent.valid.toNat
  | .psrc => s.parent.src.toNat
  | .pdst => s.parent.dst.toNat
  | .pproto => s.parent.proto.toNat

/-- The column "written by" of 10_state.md R38 for registers: the commands that may write the register in state `s`. -/
def mayWrite (s : State) : Reg → Instr → Bool
  | .sport, .setSport _ | .sport, .decode _ _ | .sport, .clear _ => true
  | .dport, .setDport _ | .dport, .decode _ _ | .dport, .clear _ => true
  | .seq, .setSeq _ | .seq, .decode _ _ | .seq, .clear _ => true
  | .ack, .setAck _ | .ack, .decode _ _ | .ack, .clear _ => true
  | .hlw, .setHlw _ | .hlw, .setOpts _ | .hlw, .decode _ _ | .hlw, .clear _ => true
  | .hlw, .encode _ => s.params.encWriteback
  | .flags, .setFlags _ | .flags, .decode _ _ | .flags, .clear _ => true
  | .win, .setWin _ | .win, .decode _ _ | .win, .clear _ => true
  | .csum, .setCsum _ | .csum, .rstCsum _ | .csum, .decode _ _ | .csum, .clear _ => true
  | .csum, .encode _ => s.params.encWriteback
  | .urg, .setUrg _ | .urg, .decode _ _ | .urg, .clear _ => true
  | .optlen, .setOpts _ | .optlen, .decode _ _ | .optlen, .clear _ => true
  | .paylen, .setPay _ | .paylen, .clrPay _ | .paylen, .decode _ _ | .paylen, .clear _ => true
  | .payvalid, .setPay _ | .payvalid, .clrPay _ | .payvalid, .decode _ _ | .payvalid, .clear _ => true
  | .wlen, .encode _ => true
  | .pvalid, .setPvalid _ => true
  | .psrc, .setPsrc _ => true
  | .pdst, .setPdst _ => true
  | .pproto, .setPproto _ => true
  | .pproto, .encode _ => s.parent.valid == 1
  | _, _ => false

/-- The column "written by" of 10_state.md R38 for the memories. -/
def mayStore : Space → Instr → Bool
  | .opt, .stb .opt _ _ | .opt, .decode _ _ => true
  | .pay, .stb .pay _ _ | .pay, .decode _ _ => true
  | .wire, .stb .wire _ _ | .wire, .encode _ => true
  | _, _ => false

/-- The commands that read or write a `PC.*` register (10_state.md R38). -/
def usesParent : Instr → Bool
  | .encode _ | .cksum _ _ | .setPsrc _ | .setPdst _ | .setPproto _ | .setPvalid _ => true
  | .getPsrc _ | .getPdst _ | .getPproto _ | .getPvalid _ => true
  | _ => false

/-- The opcodes of 30_encoding.md R92. -/
def listedOpcodes : List Nat :=
  [0x01, 0x02, 0x10, 0x11, 0x12, 0x13, 0x14, 0x15, 0x16, 0x17, 0x18, 0x19, 0x1A, 0x1B] ++
    [0x20, 0x21, 0x22, 0x23, 0x24, 0x25, 0x26, 0x27, 0x28, 0x29, 0x2A, 0x2B, 0x2C] ++
    [0x30, 0x31, 0x32, 0x33, 0x34, 0x35, 0x36, 0x37, 0x40, 0x41, 0x50, 0x51, 0x52, 0x60, 0x61, 0x62, 0x63]

/-- A word is illegal by 30_encoding.md R90 steps 1 and 2, R96: the opcode is not listed; or a field the command does
not use is not 0; or the space selector of STB or LDB is above 2. -/
def illegalFields (op sp : BitVec 8) (a : Half) : Prop :=
  op.toNat ∉ listedOpcodes ∨
    (op.toNat ∈ [0x40, 0x41] ∧ 2 < sp.toNat) ∨
    (op.toNat ∉ [0x40, 0x41] ∧ sp.toNat ≠ 0) ∨
    (op.toNat ∉ [0x40, 0x41, 0x51, 0x52] ∧ a.toNat ≠ 0)

/-- The record of the document's literal case (42_encode.md R184), with or without its parent. -/
def literalCase (valid : BitVec 1) : State :=
  { State.reset with
    hr :=
      { sport := 1234, dport := 80, seq := 0, ack := 0, hlw := 5, flags := 0x002, win := 8192, csum := 0, urg := 0 }
    parent := { valid := valid, src := 0x0A000001, dst := 0x0A000002, proto := 6 } }

end Sys2Proof.Claims

open Sys2Proof Sys2Proof.Machine Sys2Proof.Claims

/-! ### Reset, the invariant, the step -/

/-- 10_state.md R46, 70_reset_and_hazards.md R270: after power-on reset every register is 0, `pc` is 0 and every byte
of the memories is a free value, whichever draw it is of; CLEAR writes the same values to the record. That the program and the
responses are empty is the model's choice (log entries 3 and 4) and not stated here. -/
def Obligations.ResetLeavesEveryRegisterZero : Prop :=
  (∀ r : Reg, r.value State.reset = 0) ∧ State.reset.pc = 0 ∧
    (∀ sp a, State.reset.readByte sp a = Config.freeByte sp (State.reset.mem sp).draw a) ∧
    ∀ s : State, ∃ t, exec (.clear 0) s = .next t ∧ t.hr = State.reset.hr ∧ t.lr.optlen = State.reset.lr.optlen ∧
      t.lr.payvalid = State.reset.lr.payvalid ∧ t.lr.paylen = State.reset.lr.paylen

/-- The state after reset meets the invariant. -/
def Obligations.ResetMeetsTheInvariant : Prop := State.reset.Inv

/-- From every state that meets the invariant, a step gives one that meets it: `pc` never exceeds the program's length
(10_state.md R45), `LR.OPTLEN` stays 0 to 40 (R30), `LR.PAYLEN` is 0 when there is no payload (R36), the memories
keep their canonical form inside their spaces (R44). -/
def Obligations.StepKeepsTheInvariant : Prop :=
  ∀ s t : State, s.Inv → step s = .next t → t.Inv

/-- 10_state.md R45: a program runs to its end. From every state, as many steps as there are commands left, or fewer,
all answer a next state: `pc` counts them, one response is delivered for each, and neither the program nor the
parameters change. -/
def Obligations.ProgramsRunToTheirEnd : Prop :=
  ∀ (s : State) (k : Nat), s.pc + k ≤ s.program.length →
    ∃ t, core.run k s = .next t ∧ t.pc = s.pc + k ∧ t.program = s.program ∧ t.params = s.params ∧
      ∃ rs : List Response, rs.length = k ∧ t.responses = s.responses ++ rs

/-- A step runs the command its word decodes to, at that state (10_state.md R45). -/
def Obligations.StepRunsTheDecodedCommand : Prop :=
  ∀ (s : State) (c : DWord) (i : Instr), s.program[s.pc]? = some c → decodeWord c = .command i → step s = exec i s

/-- 30_encoding.md R96: an opcode outside R92, a nonzero unused `sp` or `a` and a space selector above 2 all give
`(IllegalCommand, 0)` and change nothing but `pc`. -/
def Obligations.IllegalWordsAnswerIllegalCommand : Prop :=
  ∀ (s : State) (op sp : BitVec 8) (a : Half) (imm : Word),
    s.program[s.pc]? = some (commandWord op sp a imm) → illegalFields op sp a →
      step s = .next (answered s ⟨.illegalCommand, 0⟩)

/-- THE MODEL'S CHOICE, log entries 6 and 7: where the program has ended the block idles, which changes nothing
(60_exceptions.md R262), and a `pc` above the program's length, which no state of the block has, is a fault. -/
def Obligations.IdleAtTheEndOfTheProgram : Prop :=
  (∀ s : State, s.pc = s.program.length → step s = .next s) ∧
    ∀ s : State, s.program.length < s.pc → step s = .fault .pcPastProgram

/-- A command placed by withFetchWord is the one the next step runs, and placing it changes the program only. -/
def Obligations.PlacedCommandIsTheNextRun : Prop :=
  ∀ (s : State) (i : Instr),
    step (s.withFetchWord 64 (encodeWord i).toNat) = exec i (s.withFetchWord 64 (encodeWord i).toNat) ∧
      { s.withFetchWord 64 (encodeWord i).toNat with program := s.program } = s

/-! ### Encoding -/

/-- Every command, with every operand, decodes from its own word (30_encoding.md R87, R90, R92). -/
def Obligations.DecodeOfEncodeIsTheCommand : Prop :=
  ∀ i : Instr, decodeWord (encodeWord i) = .command i

/-- A word that decodes to a command is the word of that command: no bit of it is dropped. -/
def Obligations.EncodeOfDecodeIsTheWord : Prop :=
  ∀ (c : DWord) (i : Instr), decodeWord c = .command i → encodeWord i = c

/-- 30_encoding.md R94: a word decodes to a command of an opcode-table row exactly when `C & mask = match` for that row
(and, for STB and LDB, `sp <= 2`); and the masks and matches are those R94 gives. -/
def Obligations.WordSpellsCommandIffItMatchesTheRow : Prop :=
  (∀ (c : DWord) (i : Instr),
      (∃ j, decodeWord c = .command j ∧ j.tableRow = i.tableRow) ↔
        (c &&& i.tableRow.mask = i.tableRow.pattern ∧ (i.tableRow.needsSpace = true → (spField c).toNat ≤ 2))) ∧
    ∀ i : Instr,
      i.tableRow.pattern = commandWord (opField (encodeWord i)) 0 0 0 ∧
        i.tableRow.mask =
          (match i with
          | .stb _ _ _ | .ldb _ _ _ => 0xFF00000000000000
          | .decode _ _ | .cksum _ _ => 0xFFFF000000000000
          | _ => 0xFFFFFFFF00000000) ∧
        (i.tableRow.needsSpace = true ↔ ∃ sp a imm, i = .stb sp a imm ∨ i = .ldb sp a imm)

/-- 30_encoding.md R95: the worked encodings, each decoded. -/
def Obligations.WorkedEncodingsDecode : Prop :=
  decodeWord 0x10000000000004D2 = .command (.setSport 1234) ∧
    decodeWord 0x12000000FFFFFFFF = .command (.setSeq 0xFFFFFFFF) ∧
    decodeWord 0x400000140000001E = .command (.stb .opt 20 0x1E) ∧
    decodeWord 0x4002000C00000050 = .command (.stb .wire 12 0x50) ∧
    decodeWord 0x4101000300000000 = .command (.ldb .pay 3 0) ∧
    decodeWord 0x510000000000001A = .command (.decode 0 26) ∧
    decodeWord 0x5100006400000014 = .command (.decode 100 20) ∧
    decodeWord 0x5000000000000000 = .command (.encode 0) ∧
    decodeWord 0x6200000000000000 = .command (.mpKey 0)

/-! ### Responses and errors -/

/-- 60_exceptions.md R241: every command produces exactly one response, of value 0 when the status is not OK; with it
`pc` advances by one whatever the status, and neither the program nor the parameters change. -/
def Obligations.EveryCommandAnswersOnce : Prop :=
  ∀ (i : Instr) (s : State), ∃ (t : State) (r : Response),
    exec i s = .next t ∧ t.responses = s.responses ++ [r] ∧ (r.st ≠ .ok → r.val = 0) ∧ t.pc = s.pc + 1 ∧
      t.program = s.program ∧ t.params = s.params

/-- 60_exceptions.md R242: the codes of the statuses, and which commands end with which status. -/
def Obligations.StatusesAndWhoRaisesThem : Prop :=
  ([Status.ok, .headerTooShort, .bufferUnderrun, .optionsTooLong, .optionAccessOutOfRange, .layoutInvariant,
      .lengthOverflow, .operandOutOfRange, .addressOutOfRange, .illegalCommand].map Status.code =
    [0x00, 0x01, 0x02, 0x03, 0x04, 0x05, 0x06, 0x07, 0x08, 0x09]) ∧
    ∀ (i : Instr) (s t : State) (r : Response),
      exec i s = .next t → t.responses = s.responses ++ [r] → raisedBy i r.st

/-- 60_exceptions.md R250: a command whose `imm` has a bit set above its operand width, a nonzero `imm` on a command
with no operand included, gives OperandOutOfRange and changes nothing. -/
def Obligations.WideOperandIsOutOfRange : Prop :=
  ∀ (i : Instr) (s : State), 2 ^ i.operandWidth ≤ i.imm.toNat →
    exec i s = .next (answered s ⟨.operandOutOfRange, 0⟩)

/-- 60_exceptions.md R251: STB and LDB at an OPT address of 40 or above, DECODE and CKSUM with a window past the end of
WIRE, give AddressOutOfRange and change nothing. -/
def Obligations.AddressOutsideItsSpace : Prop :=
  (∀ (s : State) (a : Half), 40 ≤ a.toNat →
      (∀ b : Byte, exec (.stb .opt a (b.setWidth 32)) s = .next (answered s ⟨.addressOutOfRange, 0⟩)) ∧
        exec (.ldb .opt a 0) s = .next (answered s ⟨.addressOutOfRange, 0⟩)) ∧
    ∀ (s : State) (off len : Half), 65536 < off.toNat + len.toNat →
      exec (.decode off (len.setWidth 32)) s = .next (answered s ⟨.addressOutOfRange, 0⟩) ∧
        exec (.cksum off (len.setWidth 32)) s = .next (answered s ⟨.addressOutOfRange, 0⟩)

/-- 60_exceptions.md R256, R258: a command that ends with any status but OK, BufferUnderrun or HeaderTooShort has
changed nothing. -/
def Obligations.FailedCommandsChangeNothing : Prop :=
  ∀ (i : Instr) (s t : State) (r : Response),
    exec i s = .next t → t.responses = s.responses ++ [r] → r.st ≠ .ok → r.st ≠ .bufferUnderrun →
      r.st ≠ .headerTooShort → t = answered s r

/-- A well-formed command never ends with one of the range statuses (30_encoding.md R90 steps 3 and 4, R93). -/
def Obligations.WellFormedCommandsAreInRange : Prop :=
  ∀ (i : Instr) (s t : State) (r : Response),
    i.wellFormed = true → exec i s = .next t → t.responses = s.responses ++ [r] →
      r.st ≠ .operandOutOfRange ∧ r.st ≠ .addressOutOfRange ∧ r.st ≠ .optionsTooLong

/-! ### Whole-machine rules of the register map -/

/-- 10_state.md R38, the column "written by": a command changes no register but those the map lets it write, and no
byte of a memory but of those the map lets it store to. -/
def Obligations.OnlyListedCommandsWrite : Prop :=
  ∀ (i : Instr) (s t : State), exec i s = .next t →
    (∀ r : Reg, mayWrite s r i = false → r.value t = r.value s) ∧
      ∀ sp : Space, mayStore sp i = false → ∀ a, t.readByte sp a = s.readByte sp a

/-- 10_state.md R38, the column "read by", for `PC.*` and `LR.WLEN`: a command that the map does not let read or write
the parent context does the same whatever it holds (so DECODE, 44_decode.md R221), and only GET_WLEN reads `LR.WLEN`.
THE MODEL'S CHOICE, log entry 2: that the two runs of a DECODE that ends with BufferUnderrun or HeaderTooShort leave the
same record, OPT and PAY. R222 leaves them open; in the model they are free values of the draw's number alone. -/
def Obligations.OnlyListedCommandsReadTheParent : Prop :=
  (∀ (i : Instr) (s t : State) (p : ParentContext), usesParent i = false → exec i s = .next t →
      exec i { s with parent := p } = .next { t with parent := p }) ∧
    ∀ (i : Instr) (s t : State) (w : Half), (∀ imm, i ≠ .encode imm) → (∀ imm, i ≠ .getWlen imm) → exec i s = .next t →
      exec i { s with lr := { s.lr with wlen := w } } = .next { t with lr := { t.lr with wlen := w } }

/-! ### Field model commands -/

/-- 40_field_access.md R111, R112: CLEAR writes 0 to the record registers, `LR.OPTLEN`, `LR.PAYVALID` and `LR.PAYLEN`
and changes nothing else; RST_CSUM writes 0 to `HR.CSUM`, changes nothing else, and is the same as SET_CSUM 0. -/
def Obligations.ClearAndChecksumReset : Prop :=
  WritesWithoutOperand .clear
      (fun s =>
        { s with
          hr :=
            { sport := 0, dport := 0, seq := 0, ack := 0, hlw := 0, flags := 0, win := 0, csum := 0, urg := 0 }
          lr := { s.lr with optlen := 0, payvalid := 0, paylen := 0 } }) ∧
    WritesWithoutOperand .rstCsum (fun s => { s with hr := { s.hr with csum := 0 } }) ∧
    ∀ s : State, exec (.rstCsum 0) s = exec (.setCsum 0) s

/-- 40_field_access.md R113 to R121: each record setter writes its own register and changes nothing else. -/
def Obligations.RecordSettersWriteTheirRegister : Prop :=
  WritesOperand 16 .setSport (fun v s => { s with hr := { s.hr with sport := v } }) ∧
    WritesOperand 16 .setDport (fun v s => { s with hr := { s.hr with dport := v } }) ∧
    WritesWord .setSeq (fun v s => { s with hr := { s.hr with seq := v } }) ∧
    WritesWord .setAck (fun v s => { s with hr := { s.hr with ack := v } }) ∧
    WritesOperand 4 .setHlw (fun v s => { s with hr := { s.hr with hlw := v } }) ∧
    WritesOperand 9 .setFlags (fun v s => { s with hr := { s.hr with flags := v } }) ∧
    WritesOperand 16 .setWin (fun v s => { s with hr := { s.hr with win := v } }) ∧
    WritesOperand 16 .setCsum (fun v s => { s with hr := { s.hr with csum := v } }) ∧
    WritesOperand 16 .setUrg (fun v s => { s with hr := { s.hr with urg := v } })

/-- 40_field_access.md R122, R146; 60_exceptions.md R245: SET_OPTS of 0 to 40 writes `LR.OPTLEN` and the header length
`(20 + n + 3) >> 2`, which is `5 + ceil(n/4)`, and changes nothing else; 41 to 63 is OptionsTooLong and 64 or more
OperandOutOfRange, with nothing changed. -/
def Obligations.SetOptionsDerivesTheHeaderLength : Prop :=
  (∀ (s : State) (n : BitVec 6), n.toNat ≤ 40 →
      ∃ h : BitVec 4, h.toNat = (20 + n.toNat + 3) >>> 2 ∧ 20 + n.toNat ≤ 4 * h.toNat ∧ 4 * h.toNat < 20 + n.toNat + 4 ∧
        exec (.setOpts (n.setWidth 32)) s =
          .next (answered { s with lr := { s.lr with optlen := n }, hr := { s.hr with hlw := h } } ⟨.ok, 0⟩)) ∧
    (∀ (s : State) (imm : Word), 41 ≤ imm.toNat → imm.toNat ≤ 63 →
      exec (.setOpts imm) s = .next (answered s ⟨.optionsTooLong, 0⟩)) ∧
    ∀ (s : State) (imm : Word), 64 ≤ imm.toNat →
      exec (.setOpts imm) s = .next (answered s ⟨.operandOutOfRange, 0⟩)

/-- 40_field_access.md R123, R124: SET_PAY attaches a payload of the given length, CLR_PAY detaches it; nothing else
changes. -/
def Obligations.PayloadIsAttachedAndDetached : Prop :=
  WritesOperand 16 .setPay (fun v s => { s with lr := { s.lr with payvalid := 1, paylen := v } }) ∧
    WritesWithoutOperand .clrPay (fun s => { s with lr := { s.lr with payvalid := 0, paylen := 0 } })

/-- 40_field_access.md R125 to R133: each record getter responds with its register and changes nothing. -/
def Obligations.RecordGettersReadTheirRegister : Prop :=
  ReadsRegister .getSport (fun s => s.hr.sport.toNat) ∧ ReadsRegister .getDport (fun s => s.hr.dport.toNat) ∧
    ReadsRegister .getSeq (fun s => s.hr.seq.toNat) ∧ ReadsRegister .getAck (fun s => s.hr.ack.toNat) ∧
    ReadsRegister .getHlw (fun s => s.hr.hlw.toNat) ∧ ReadsRegister .getFlags (fun s => s.hr.flags.toNat) ∧
    ReadsRegister .getWin (fun s => s.hr.win.toNat) ∧ ReadsRegister .getCsum (fun s => s.hr.csum.toNat) ∧
    ReadsRegister .getUrg (fun s => s.hr.urg.toNat)

/-- 40_field_access.md R134 to R137: the length and valid registers are read back and nothing changes. -/
def Obligations.LengthGettersReadTheirRegister : Prop :=
  ReadsRegister .getOptlen (fun s => s.lr.optlen.toNat) ∧ ReadsRegister .getPaylen (fun s => s.lr.paylen.toNat) ∧
    ReadsRegister .getPayvalid (fun s => s.lr.payvalid.toNat) ∧ ReadsRegister .getWlen (fun s => s.lr.wlen.toNat)

/-- 40_field_access.md R138 to R141: each parent setter writes its own register and changes nothing else. -/
def Obligations.ParentSettersWriteTheirRegister : Prop :=
  WritesWord .setPsrc (fun v s => { s with parent := { s.parent with src := v } }) ∧
    WritesWord .setPdst (fun v s => { s with parent := { s.parent with dst := v } }) ∧
    WritesOperand 8 .setPproto (fun v s => { s with parent := { s.parent with proto := v } }) ∧
    WritesOperand 1 .setPvalid (fun v s => { s with parent := { s.parent with valid := v } })

/-- 40_field_access.md R142 to R145: each parent getter responds with its register and changes nothing. -/
def Obligations.ParentGettersReadTheirRegister : Prop :=
  ReadsRegister .getPsrc (fun s => s.parent.src.toNat) ∧ ReadsRegister .getPdst (fun s => s.parent.dst.toNat) ∧
    ReadsRegister .getPproto (fun s => s.parent.proto.toNat) ∧ ReadsRegister .getPvalid (fun s => s.parent.valid.toNat)

/-! ### Host memory access -/

/-- 41_memory_access.md R161: STB at an address of its space writes that byte and nothing else; an operand above 8 bits
is OperandOutOfRange, an OPT address of 40 or above AddressOutOfRange, a selector above 2 IllegalCommand. -/
def Obligations.StoreByteWritesThatByteOnly : Prop :=
  (∀ (s : State) (sp : Space) (a : Half) (b : Byte), (sp = .opt → a.toNat < 40) →
      ∃ t, exec (.stb sp a (b.setWidth 32)) s = .next t ∧ t.readByte sp a.toNat = b ∧
        (∀ sp' x, sp' ≠ sp ∨ x ≠ a.toNat → t.readByte sp' x = s.readByte sp' x) ∧ SameRegisters s t ∧
        t.pc = s.pc + 1 ∧ t.responses = s.responses ++ [⟨.ok, 0⟩]) ∧
    (∀ (s : State) (sp : Space) (a : Half) (imm : Word), 2 ^ 8 ≤ imm.toNat →
      exec (.stb sp a imm) s = .next (answered s ⟨.operandOutOfRange, 0⟩)) ∧
    (∀ (s : State) (a : Half) (b : Byte), 40 ≤ a.toNat →
      exec (.stb .opt a (b.setWidth 32)) s = .next (answered s ⟨.addressOutOfRange, 0⟩)) ∧
    ∀ (s : State) (sp : BitVec 8) (a : Half) (imm : Word), 2 < sp.toNat →
      s.program[s.pc]? = some (commandWord 0x40 sp a imm) → step s = .next (answered s ⟨.illegalCommand, 0⟩)

/-- 41_memory_access.md R162: LDB at an address of its space responds with the byte, zero-extended, and changes
nothing; a nonzero `imm` is OperandOutOfRange, an OPT address of 40 or above AddressOutOfRange, a selector above 2
IllegalCommand. -/
def Obligations.LoadByteReadsThatByte : Prop :=
  (∀ (s : State) (sp : Space) (a : Half), (sp = .opt → a.toNat < 40) →
      ∃ v : DWord, v.toNat = (s.readByte sp a.toNat).toNat ∧
        exec (.ldb sp a 0) s = .next (answered s ⟨.ok, v⟩)) ∧
    (∀ (s : State) (sp : Space) (a : Half) (imm : Word), imm ≠ 0 →
      exec (.ldb sp a imm) s = .next (answered s ⟨.operandOutOfRange, 0⟩)) ∧
    (∀ (s : State) (a : Half), 40 ≤ a.toNat →
      exec (.ldb .opt a 0) s = .next (answered s ⟨.addressOutOfRange, 0⟩)) ∧
    ∀ (s : State) (sp : BitVec 8) (a : Half) (imm : Word), 2 < sp.toNat →
      s.program[s.pc]? = some (commandWord 0x41 sp a imm) → step s = .next (answered s ⟨.illegalCommand, 0⟩)

/-- A byte stored by STB is the byte LDB loads next, at that address of that space, and any other byte loads as it
would have before the store (20_memory.md R66, R70). -/
def Obligations.LoadAfterStoreGivesTheByte : Prop :=
  ∀ (s t : State) (sp sp' : Space) (a a' : Half) (b : Byte), (sp = .opt → a.toNat < 40) →
    exec (.stb sp a (b.setWidth 32)) s = .next t →
      exec (.ldb sp a 0) t = .next (answered t ⟨.ok, b.setWidth 64⟩) ∧
        (sp' ≠ sp ∨ a' ≠ a → ∀ r, exec (.ldb sp' a' 0) s = .next (answered s r) →
          exec (.ldb sp' a' 0) t = .next (answered t r))

/-! ### ENCODE -/

/-- 42_encode.md R171, R173, R175 to R182: on an encodable record ENCODE completes. WIRE[0 .. total-1] are the bytes of
the layout with the checksum field computed (stored checksum 0) or as supplied, the rest of WIRE is as before,
`LR.WLEN` and the response are the total length, the parent takes the protocol identifier when there is one, the record
takes the length and the checksum with ENC_WRITEBACK only, and nothing else changes. -/
def Obligations.EncodeWritesTheLayout : Prop :=
  ∀ s : State, encodable s →
    ∃ t, exec (.encode 0) s = .next t ∧
      (∀ k, k < totalLength s → t.readByte .wire k = layoutByte s (wireChecksum s) k) ∧
      (∀ k, totalLength s ≤ k → t.readByte .wire k = s.readByte .wire k) ∧
      (∀ a, t.readByte .opt a = s.readByte .opt a) ∧ (∀ a, t.readByte .pay a = s.readByte .pay a) ∧
      t.lr.wlen.toNat = totalLength s ∧ t.responses = s.responses ++ [⟨.ok, BitVec.ofNat 64 (totalLength s)⟩] ∧
      t.parent = parentAfter s ∧
      t.hr =
        (if s.params.encWriteback then
          { s.hr with hlw := BitVec.ofNat 4 (headerLength s), csum := wireChecksum s }
        else s.hr) ∧
      t.lr.optlen = s.lr.optlen ∧ t.lr.payvalid = s.lr.payvalid ∧ t.lr.paylen = s.lr.paylen ∧ t.pc = s.pc + 1 ∧
      t.program = s.program ∧ t.params = s.params ∧ t.draws = s.draws

/-- 42_encode.md R172, R174; 60_exceptions.md R247, R248: a layout the nibble cannot carry gives LayoutInvariant, else
a total above 65535 gives LengthOverflow, each with nothing changed. -/
def Obligations.EncodeRefusesBadLayouts : Prop :=
  ∀ s : State,
    (badLayout s → exec (.encode 0) s = .next (answered s ⟨.layoutInvariant, 0⟩)) ∧
      (¬ badLayout s → 65535 < totalLength s → exec (.encode 0) s = .next (answered s ⟨.lengthOverflow, 0⟩))

/-- 42_encode.md R177: the parent write-back. A successful ENCODE writes the protocol identifier to a parent that is
there, before the checksum is computed with it; where there is no parent, and on every other status, nothing is
written. -/
def Obligations.EncodeInformsTheParent : Prop :=
  (∀ (s t : State) (imm : Word), exec (.encode imm) s = .next t →
      (encodable s → imm = 0 → s.parent.valid.toNat = 1 → t.parent = { s.parent with proto := s.params.protoId }) ∧
        (¬ encodable s ∨ imm ≠ 0 ∨ s.parent.valid.toNat = 0 → t.parent = s.parent)) ∧
    ∀ s t : State, encodable s → s.hr.csum = 0 → exec (.encode 0) s = .next t →
      t.readByte .wire 16 ++ t.readByte .wire 17 = checksum t.parent (layoutBytes s 0)

/-- 42_encode.md R182: what ENCODE never changes, whatever it answers. -/
def Obligations.EncodeNeverChangesTheRest : Prop :=
  ∀ (s t : State) (imm : Word), exec (.encode imm) s = .next t →
    t.hr.sport = s.hr.sport ∧ t.hr.dport = s.hr.dport ∧ t.hr.seq = s.hr.seq ∧ t.hr.ack = s.hr.ack ∧
      t.hr.flags = s.hr.flags ∧ t.hr.win = s.hr.win ∧ t.hr.urg = s.hr.urg ∧ t.lr.optlen = s.lr.optlen ∧
      t.lr.payvalid = s.lr.payvalid ∧ t.lr.paylen = s.lr.paylen ∧ t.parent.valid = s.parent.valid ∧
      t.parent.src = s.parent.src ∧ t.parent.dst = s.parent.dst ∧
      (∀ a, t.readByte .opt a = s.readByte .opt a) ∧ ∀ a, t.readByte .pay a = s.readByte .pay a

/-- 42_encode.md R183: ENCODE is a function of the registers and bytes it reads and of the parameters. Two states that
agree on those, whatever else they hold (what WIRE held, `LR.WLEN`, stale bytes), end with the same output bytes, the
same length, record and parent, and the same response. -/
def Obligations.EncodeDependsOnWhatItReadsOnly : Prop :=
  ∀ s s' : State, encodable s → s'.hr = s.hr → s'.lr.optlen = s.lr.optlen → s'.lr.payvalid = s.lr.payvalid →
    s'.lr.paylen = s.lr.paylen → s'.parent = s.parent → s'.params = s.params →
    (∀ a, a < s.lr.optlen.toNat → s'.readByte .opt a = s.readByte .opt a) →
    (∀ a, a < payloadLength s → s'.readByte .pay a = s.readByte .pay a) →
      ∃ t t', exec (.encode 0) s = .next t ∧ exec (.encode 0) s' = .next t' ∧
        (∀ k, k < totalLength s → t'.readByte .wire k = t.readByte .wire k) ∧ t'.lr.wlen = t.lr.wlen ∧ t'.hr = t.hr ∧
        t'.parent = t.parent ∧
        ∃ r : Response, t.responses = s.responses ++ [r] ∧ t'.responses = s'.responses ++ [r]

/-- 42_encode.md R181: what ENCODE writes to the record, and that under either value of ENC_WRITEBACK a second ENCODE
gives the same bytes and the same length. -/
def Obligations.EncodeTwiceGivesTheSameBytes : Prop :=
  ∀ s t : State, encodable s → exec (.encode 0) s = .next t →
    (s.params.encWriteback = false → t.hr = s.hr) ∧
      (s.params.encWriteback = true →
        t.hr = { s.hr with hlw := BitVec.ofNat 4 (headerLength s), csum := wireChecksum s }) ∧
      ∃ u, exec (.encode 0) t = .next u ∧ u.lr.wlen = t.lr.wlen ∧ ∀ k, u.readByte .wire k = t.readByte .wire k

/-- 42_encode.md R184: the document's literal case, with the parent; and 43_checksum.md R200's checksum of it without a
parent. -/
def Obligations.LiteralCaseEncodes : Prop :=
  (∃ t, exec (.encode 0) (literalCase 1) = .next t ∧ t.responses = [⟨.ok, 20⟩] ∧
      t.readBytes .wire 0 20 =
        [0x04, 0xD2, 0x00, 0x50, 0x00, 0x00, 0x00, 0x00, 0x00, 0x00, 0x00, 0x00, 0x50, 0x02, 0x20, 0x00, 0x76, 0xBE,
          0x00, 0x00]) ∧
    ∃ t, exec (.encode 0) (literalCase 0) = .next t ∧ t.readByte .wire 16 = 0x8A ∧ t.readByte .wire 17 = 0xDB

/-! ### The checksum -/

/-- 43_checksum.md R191, R192, R193: what is summed. The six pseudo-header terms when there is a parent and none
otherwise; every 16-bit big-endian word counted from the first byte; a last odd byte shifted left by 8. -/
def Obligations.ChecksumSumsTheWords : Prop :=
  ∀ (p : ParentContext) (bs : List Byte),
    checksumAcc p bs =
      (if p.valid.toNat = 1 then
        p.src.toNat / 2 ^ 16 + p.src.toNat % 2 ^ 16 + p.dst.toNat / 2 ^ 16 + p.dst.toNat % 2 ^ 16 + p.proto.toNat +
          bs.length % 2 ^ 16
      else 0) +
        ((List.range (bs.length / 2)).map
          (fun i => (bs.getD (2 * i) 0).toNat * 2 ^ 8 + (bs.getD (2 * i + 1) 0).toNat)).sum +
        (if bs.length % 2 = 1 then (bs.getD (bs.length - 1) 0).toNat * 2 ^ 8 else 0)

/-- 43_checksum.md R194: for any 32-bit sum the fold is done after two passes, and its result fits 16 bits. -/
def Obligations.TwoPassesFoldAnySum : Prop :=
  ∀ acc : Nat, acc < 2 ^ 32 → foldCarries acc = foldPass (foldPass acc) ∧ foldCarries acc ≤ 0xFFFF

/-- 43_checksum.md R195: the result is 0xFFFF less the folded sum, with no value replaced; a folded sum of 0 occurs only
when the sum is 0. -/
def Obligations.ChecksumIsTheComplement : Prop :=
  (∀ (p : ParentContext) (bs : List Byte), (checksum p bs).toNat = 0xFFFF - foldCarries (checksumAcc p bs)) ∧
    ∀ acc : Nat, foldCarries acc = 0 → acc = 0

/-- 43_checksum.md R196: the sum over at most 65535 bytes is at most 2147844090, which is below 2^32. -/
def Obligations.AccumulatorNeverWraps : Prop :=
  ∀ (p : ParentContext) (bs : List Byte), bs.length ≤ 65535 →
    checksumAcc p bs ≤ 2147844090 ∧ checksumAcc p bs < 2 ^ 32

/-- 43_checksum.md R197: where bytes 16 and 17 hold the checksum of the sequence with those bytes zeroed, the checksum
of the whole is 0, in every case. -/
def Obligations.StoredChecksumVerifies : Prop :=
  ∀ (p : ParentContext) (bs : List Byte), 18 ≤ bs.length →
    ∀ c : Half, c = checksum p ((bs.set 16 0).set 17 0) →
      checksum p ((bs.set 16 (c.extractLsb' 8 8)).set 17 (c.extractLsb' 0 8)) = 0

/-- 43_checksum.md R198: CKSUM over a window inside WIRE responds with the checksum of its bytes and writes nothing;
`len = 0` is legal and gives 0xFFFF with no parent; a length above 16 bits is OperandOutOfRange, a window past the end
of WIRE AddressOutOfRange, a nonzero `sp` IllegalCommand. -/
def Obligations.CksumAnswersTheChecksum : Prop :=
  (∀ (s : State) (off len : Half), off.toNat + len.toNat ≤ 65536 →
      exec (.cksum off (len.setWidth 32)) s =
        .next (answered s
          ⟨.ok, (checksum s.parent ((List.range len.toNat).map fun i => s.readByte .wire (off.toNat + i))).setWidth 64⟩)) ∧
    (∀ (s : State) (off : Half) (imm : Word), 2 ^ 16 ≤ imm.toNat →
      exec (.cksum off imm) s = .next (answered s ⟨.operandOutOfRange, 0⟩)) ∧
    (∀ (s : State) (off len : Half), 65536 < off.toNat + len.toNat →
      exec (.cksum off (len.setWidth 32)) s = .next (answered s ⟨.addressOutOfRange, 0⟩)) ∧
    (∀ (s : State) (off : Half), s.parent.valid = 0 → exec (.cksum off 0) s = .next (answered s ⟨.ok, 0xFFFF⟩)) ∧
    ∀ (s : State) (sp : BitVec 8) (off : Half) (imm : Word), sp ≠ 0 →
      s.program[s.pc]? = some (commandWord 0x52 sp off imm) → step s = .next (answered s ⟨.illegalCommand, 0⟩)

/-- An ENCODE that computed its checksum verifies: CKSUM over its output responds 0 (43_checksum.md R197, R198). -/
def Obligations.EncodedHeaderVerifies : Prop :=
  ∀ s t : State, encodable s → s.hr.csum = 0 → exec (.encode 0) s = .next t →
    exec (.cksum 0 (t.lr.wlen.setWidth 32)) t = .next (answered t ⟨.ok, 0⟩)

/-! ### DECODE -/

/-- 44_decode.md R211, R213, R214, R215, R217, R218, R220, R223: on a window of at least 20 bytes whose nibble is at
least 5 DECODE completes. Every record register is read from its place in the window, the options are clamped to the
window, the rest is the payload, bytes of OPT and PAY beyond them are as before, and WIRE, `LR.WLEN` and `PC.*` are
unchanged, whatever the checksum. -/
def Obligations.DecodePopulatesTheRecord : Prop :=
  ∀ (s : State) (off len : Half), off.toNat + len.toNat ≤ 65536 → 20 ≤ len.toNat → 5 ≤ nibbleAt s off.toNat →
    ∃ t, exec (.decode off (len.setWidth 32)) s = .next t ∧
      t.hr.sport.toNat = be16At s off.toNat ∧ t.hr.dport.toNat = be16At s (off.toNat + 2) ∧
      t.hr.seq.toNat = be32At s (off.toNat + 4) ∧ t.hr.ack.toNat = be32At s (off.toNat + 8) ∧
      t.hr.hlw.toNat = nibbleAt s off.toNat ∧ t.hr.flags.toNat = be16At s (off.toNat + 12) % 2 ^ 9 ∧
      t.hr.win.toNat = be16At s (off.toNat + 14) ∧ t.hr.csum.toNat = be16At s (off.toNat + 16) ∧
      t.hr.urg.toNat = be16At s (off.toNat + 18) ∧
      t.lr.optlen.toNat = optionsCount s off.toNat len.toNat ∧
      (∀ i, i < optionsCount s off.toNat len.toNat → t.readByte .opt i = s.readByte .wire (off.toNat + 20 + i)) ∧
      (∀ i, optionsCount s off.toNat len.toNat ≤ i → t.readByte .opt i = s.readByte .opt i) ∧
      t.lr.payvalid = 1 ∧ t.lr.paylen.toNat = len.toNat - 20 - optionsCount s off.toNat len.toNat ∧
      (∀ j, j < len.toNat - 20 - optionsCount s off.toNat len.toNat →
        t.readByte .pay j = s.readByte .wire (off.toNat + 20 + optionsCount s off.toNat len.toNat + j)) ∧
      (∀ j, len.toNat - 20 - optionsCount s off.toNat len.toNat ≤ j → t.readByte .pay j = s.readByte .pay j) ∧
      (∀ a, t.readByte .wire a = s.readByte .wire a) ∧ t.lr.wlen = s.lr.wlen ∧ t.parent = s.parent ∧
      t.pc = s.pc + 1 ∧ t.responses = s.responses ++ [⟨.ok, 0⟩] ∧ t.program = s.program ∧ t.params = s.params ∧
      t.draws = s.draws

/-- 44_decode.md R212, R216, R222; 60_exceptions.md R243, R244: how DECODE ends. A window below 14 bytes is BufferUnderrun; of 14 bytes
or more with a nibble below 5, HeaderTooShort; of 14 to 19 bytes with a nibble of 5 or more, BufferUnderrun; every other
window is OK, one that ends inside the options region too. In each case WIRE, `LR.WLEN` and `PC.*` are unchanged; of the
record only legality is stated here, it is unspecified where DECODE fails. -/
def Obligations.DecodeRejectsShortHeaders : Prop :=
  ∀ (s : State) (off len : Half), off.toNat + len.toNat ≤ 65536 →
    ∀ st : Status,
      (len.toNat < 14 ∧ st = .bufferUnderrun) ∨
        (14 ≤ len.toNat ∧ nibbleAt s off.toNat < 5 ∧ st = .headerTooShort) ∨
        (14 ≤ len.toNat ∧ len.toNat < 20 ∧ 5 ≤ nibbleAt s off.toNat ∧ st = .bufferUnderrun) ∨
        (20 ≤ len.toNat ∧ 5 ≤ nibbleAt s off.toNat ∧ st = .ok) →
      ∃ t, exec (.decode off (len.setWidth 32)) s = .next t ∧ t.responses = s.responses ++ [⟨st, 0⟩] ∧
        t.pc = s.pc + 1 ∧ (∀ a, t.readByte .wire a = s.readByte .wire a) ∧ t.lr.wlen = s.lr.wlen ∧
        t.parent = s.parent ∧ t.program = s.program ∧ t.params = s.params ∧ t.lr.optlen.toNat ≤ 40 ∧
        (t.lr.payvalid = 0 → t.lr.paylen = 0)

/-- 44_decode.md R223: whatever it answers, DECODE never changes WIRE, `LR.WLEN` or `PC.*`. -/
def Obligations.DecodeNeverChangesWireOrParent : Prop :=
  ∀ (s t : State) (off : Half) (imm : Word), exec (.decode off imm) s = .next t →
    (∀ a, t.readByte .wire a = s.readByte .wire a) ∧ t.lr.wlen = s.lr.wlen ∧ t.parent = s.parent

/-- The round trip (44_decode.md R224, 90_conflicts.md C6), for every encodable record with a supplied checksum and
not only for one without options: DECODE of ENCODE's output gives back the record registers (an unset length becomes
5), the options with their padding, and the payload. -/
def Obligations.DecodeOfEncodeGivesTheRecord : Prop :=
  ∀ s t : State, encodable s → s.hr.csum ≠ 0 → exec (.encode 0) s = .next t →
    ∃ u, exec (.decode 0 (t.lr.wlen.setWidth 32)) t = .next u ∧ u.responses = t.responses ++ [⟨.ok, 0⟩] ∧
      u.hr = { s.hr with hlw := BitVec.ofNat 4 (headerLength s) } ∧
      u.lr.optlen.toNat = 4 * headerLength s - 20 ∧
      (∀ i, i < 4 * headerLength s - 20 →
        u.readByte .opt i = if i < s.lr.optlen.toNat then s.readByte .opt i else 0) ∧
      u.lr.payvalid = 1 ∧ u.lr.paylen.toNat = payloadLength s ∧
      ∀ j, j < payloadLength s → u.readByte .pay j = s.readByte .pay j

/-! ### The option extractor -/

/-- 45_option_extractor.md R231, R232: MP_ENABLED answers 1 exactly when there are more than 20 option bytes and the
one at index 20 is 0x1E; MP_SUBTYPE answers 0, 1 or -1 from the byte at index 22, OptionAccessOutOfRange when that
index is at or beyond `LR.OPTLEN`. Nothing changes. -/
def Obligations.MultipathPresenceAndSubtype : Prop :=
  (∀ s : State, 20 < s.lr.optlen.toNat → s.readByte .opt 20 = 0x1E →
      exec (.mpEnabled 0) s = .next (answered s ⟨.ok, 1⟩)) ∧
    (∀ s : State, s.lr.optlen.toNat ≤ 20 ∨ s.readByte .opt 20 ≠ 0x1E →
      exec (.mpEnabled 0) s = .next (answered s ⟨.ok, 0⟩)) ∧
    (∀ s : State, s.lr.optlen.toNat ≤ 22 → exec (.mpSubtype 0) s = .next (answered s ⟨.optionAccessOutOfRange, 0⟩)) ∧
    (∀ s : State, 22 < s.lr.optlen.toNat → s.readByte .opt 22 = 0x00 →
      exec (.mpSubtype 0) s = .next (answered s ⟨.ok, 0⟩)) ∧
    (∀ s : State, 22 < s.lr.optlen.toNat → s.readByte .opt 22 = 0x10 →
      exec (.mpSubtype 0) s = .next (answered s ⟨.ok, 1⟩)) ∧
    ∀ s : State, 22 < s.lr.optlen.toNat → s.readByte .opt 22 ≠ 0x00 → s.readByte .opt 22 ≠ 0x10 →
      exec (.mpSubtype 0) s = .next (answered s ⟨.ok, 0xFFFFFFFFFFFFFFFF⟩)

/-- 45_option_extractor.md R233, R234: MP_KEY answers the bytes at indices 24 to 31 and MP_TOKEN those at 24 to 27,
index 24 the most significant, with no test of kind or subtype; OptionAccessOutOfRange when the last index is at or
beyond `LR.OPTLEN`. Nothing changes. -/
def Obligations.MultipathKeyAndToken : Prop :=
  (∀ s : State, 32 ≤ s.lr.optlen.toNat →
      ∃ v : DWord, exec (.mpKey 0) s = .next (answered s ⟨.ok, v⟩) ∧
        ∀ i, i < 8 → v.extractLsb' (56 - 8 * i) 8 = s.readByte .opt (24 + i)) ∧
    (∀ s : State, s.lr.optlen.toNat < 32 → exec (.mpKey 0) s = .next (answered s ⟨.optionAccessOutOfRange, 0⟩)) ∧
    (∀ s : State, 28 ≤ s.lr.optlen.toNat →
      ∃ v : Word, exec (.mpToken 0) s = .next (answered s ⟨.ok, v.setWidth 64⟩) ∧
        ∀ i, i < 4 → v.extractLsb' (24 - 8 * i) 8 = s.readByte .opt (24 + i)) ∧
    ∀ s : State, s.lr.optlen.toNat < 28 → exec (.mpToken 0) s = .next (answered s ⟨.optionAccessOutOfRange, 0⟩)

/-- 10_state.md R41: the extractor never returns a stale byte. On two states with the same `LR.OPTLEN` and the same
option bytes below it, the four commands give the same response. -/
def Obligations.ExtractorIgnoresStaleBytes : Prop :=
  ∀ (s : State) (m : Memory) (imm : Word) (i : Instr),
    (∀ a, a < s.lr.optlen.toNat → ({ s with opt := m } : State).readByte .opt a = s.readByte .opt a) →
      i = .mpEnabled imm ∨ i = .mpSubtype imm ∨ i = .mpKey imm ∨ i = .mpToken imm →
        ∃ r, exec i s = .next (answered s r) ∧ exec i { s with opt := m } = .next (answered { s with opt := m } r)
end

