-- ==== Sys2Proof/Laws/Checksum.lean ====
section
/-! SUPPORT. What the fold and the word sum of the checksum do (43_checksum.md R192 to R195). -/

namespace Sys2Proof.Machine

/-- A pass keeps the residue modulo 0xFFFF. -/
theorem foldPass_mod (acc : Nat) : foldPass acc % 65535 = acc % 65535 := by
  simp only [foldPass, Nat.shiftRight_eq_div_pow]; omega

/-- A pass changes nothing in a sum that fits 16 bits. -/
theorem foldPass_of_fits {acc : Nat} (h : acc < 2 ^ 16) : foldPass acc = acc := by
  simp only [foldPass, Nat.shiftRight_eq_div_pow]; omega

/-- A pass that runs makes the sum smaller. -/
theorem foldPass_lt {acc : Nat} (h : 2 ^ 16 ≤ acc) : foldPass acc < acc := by
  simp only [foldPass, Nat.shiftRight_eq_div_pow]; omega

/-- A pass keeps a positive sum positive. -/
theorem foldPass_pos {acc : Nat} (h : 0 < acc) : 0 < foldPass acc := by
  simp only [foldPass, Nat.shiftRight_eq_div_pow]; omega

/-- The loop, with fuel enough, ends with a sum that fits 16 bits, of the same residue, and positive if it was. -/
theorem foldLoop_spec (fuel acc : Nat) (h : acc ≤ fuel) :
    foldLoop fuel acc < 2 ^ 16 ∧ foldLoop fuel acc % 65535 = acc % 65535 ∧ (0 < acc → 0 < foldLoop fuel acc) := by
  induction fuel generalizing acc with
  | zero => obtain rfl : acc = 0 := by omega
            simp [foldLoop]
  | succ fuel ih =>
    unfold foldLoop
    split
    · rename_i hs
      have : acc < 2 ^ 16 := by simp only [Nat.shiftRight_eq_div_pow] at hs; omega
      exact ⟨this, rfl, id⟩
    · rename_i hs
      have hbig : 2 ^ 16 ≤ acc := by simp only [Nat.shiftRight_eq_div_pow] at hs; omega
      have hlt := foldPass_lt hbig
      obtain ⟨h1, h2, h3⟩ := ih (foldPass acc) (by omega)
      exact ⟨h1, h2.trans (foldPass_mod acc), fun hp => h3 (foldPass_pos hp)⟩

/-- The whole fold. -/
theorem foldCarries_spec (acc : Nat) :
    foldCarries acc < 2 ^ 16 ∧ foldCarries acc % 65535 = acc % 65535 ∧ (0 < acc → 0 < foldCarries acc) :=
  foldLoop_spec acc acc (Nat.le_refl _)

/-- The word sum of a sequence whose first part has even length. -/
theorem wordSum_append (n : Nat) (l₁ l₂ : List Byte) (h : l₁.length = 2 * n) :
    wordSum (l₁ ++ l₂) = wordSum l₁ + wordSum l₂ := by
  induction n generalizing l₁ with
  | zero => simp [List.length_eq_zero_iff.mp h, wordSum]
  | succ n ih =>
    match l₁, h with
    | hi :: lo :: rest, h =>
      have hr : rest.length = 2 * n := by simp at h; omega
      simp [wordSum, ih rest hr]; omega

end Sys2Proof.Machine
end

