-- ==== Sys2Proof/Laws/State.lean ====
section
/-! SUPPORT. One lemma per field of the state and per update of it, so that no later proof unfolds a record
update. -/

namespace Sys2Proof.Machine

/-! ### Register groups -/

@[simp] theorem State.setHr_hr (s : State) (h : HeaderRecord) : (s.setHr h).hr = h := rfl
@[simp] theorem State.setHr_lr (s : State) (h : HeaderRecord) : (s.setHr h).lr = s.lr := rfl
@[simp] theorem State.setHr_parent (s : State) (h : HeaderRecord) : (s.setHr h).parent = s.parent := rfl
@[simp] theorem State.setHr_opt (s : State) (h : HeaderRecord) : (s.setHr h).opt = s.opt := rfl
@[simp] theorem State.setHr_pay (s : State) (h : HeaderRecord) : (s.setHr h).pay = s.pay := rfl
@[simp] theorem State.setHr_wire (s : State) (h : HeaderRecord) : (s.setHr h).wire = s.wire := rfl
@[simp] theorem State.setHr_pc (s : State) (h : HeaderRecord) : (s.setHr h).pc = s.pc := rfl
@[simp] theorem State.setHr_program (s : State) (h : HeaderRecord) : (s.setHr h).program = s.program := rfl
@[simp] theorem State.setHr_responses (s : State) (h : HeaderRecord) :
    (s.setHr h).responses = s.responses := rfl
@[simp] theorem State.setHr_params (s : State) (h : HeaderRecord) : (s.setHr h).params = s.params := rfl
@[simp] theorem State.setHr_draws (s : State) (h : HeaderRecord) : (s.setHr h).draws = s.draws := rfl

@[simp] theorem State.setLr_hr (s : State) (l : LengthRegs) : (s.setLr l).hr = s.hr := rfl
@[simp] theorem State.setLr_lr (s : State) (l : LengthRegs) : (s.setLr l).lr = l := rfl
@[simp] theorem State.setLr_parent (s : State) (l : LengthRegs) : (s.setLr l).parent = s.parent := rfl
@[simp] theorem State.setLr_opt (s : State) (l : LengthRegs) : (s.setLr l).opt = s.opt := rfl
@[simp] theorem State.setLr_pay (s : State) (l : LengthRegs) : (s.setLr l).pay = s.pay := rfl
@[simp] theorem State.setLr_wire (s : State) (l : LengthRegs) : (s.setLr l).wire = s.wire := rfl
@[simp] theorem State.setLr_pc (s : State) (l : LengthRegs) : (s.setLr l).pc = s.pc := rfl
@[simp] theorem State.setLr_program (s : State) (l : LengthRegs) : (s.setLr l).program = s.program := rfl
@[simp] theorem State.setLr_responses (s : State) (l : LengthRegs) :
    (s.setLr l).responses = s.responses := rfl
@[simp] theorem State.setLr_params (s : State) (l : LengthRegs) : (s.setLr l).params = s.params := rfl
@[simp] theorem State.setLr_draws (s : State) (l : LengthRegs) : (s.setLr l).draws = s.draws := rfl

@[simp] theorem State.setParent_hr (s : State) (p : ParentContext) : (s.setParent p).hr = s.hr := rfl
@[simp] theorem State.setParent_lr (s : State) (p : ParentContext) : (s.setParent p).lr = s.lr := rfl
@[simp] theorem State.setParent_parent (s : State) (p : ParentContext) : (s.setParent p).parent = p := rfl
@[simp] theorem State.setParent_opt (s : State) (p : ParentContext) : (s.setParent p).opt = s.opt := rfl
@[simp] theorem State.setParent_pay (s : State) (p : ParentContext) : (s.setParent p).pay = s.pay := rfl
@[simp] theorem State.setParent_wire (s : State) (p : ParentContext) : (s.setParent p).wire = s.wire := rfl
@[simp] theorem State.setParent_pc (s : State) (p : ParentContext) : (s.setParent p).pc = s.pc := rfl
@[simp] theorem State.setParent_program (s : State) (p : ParentContext) :
    (s.setParent p).program = s.program := rfl
@[simp] theorem State.setParent_responses (s : State) (p : ParentContext) :
    (s.setParent p).responses = s.responses := rfl
@[simp] theorem State.setParent_params (s : State) (p : ParentContext) :
    (s.setParent p).params = s.params := rfl
@[simp] theorem State.setParent_draws (s : State) (p : ParentContext) : (s.setParent p).draws = s.draws := rfl

@[simp] theorem State.clearRecord_hr (s : State) : (s.clearRecord).hr = HeaderRecord.zero := rfl
@[simp] theorem State.clearRecord_lr (s : State) :
    (s.clearRecord).lr = { s.lr with optlen := 0, paylen := 0, payvalid := 0 } := rfl
@[simp] theorem State.clearRecord_parent (s : State) : (s.clearRecord).parent = s.parent := rfl
@[simp] theorem State.clearRecord_opt (s : State) : (s.clearRecord).opt = s.opt := rfl
@[simp] theorem State.clearRecord_pay (s : State) : (s.clearRecord).pay = s.pay := rfl
@[simp] theorem State.clearRecord_wire (s : State) : (s.clearRecord).wire = s.wire := rfl
@[simp] theorem State.clearRecord_pc (s : State) : (s.clearRecord).pc = s.pc := rfl
@[simp] theorem State.clearRecord_program (s : State) : (s.clearRecord).program = s.program := rfl
@[simp] theorem State.clearRecord_responses (s : State) : (s.clearRecord).responses = s.responses := rfl
@[simp] theorem State.clearRecord_params (s : State) : (s.clearRecord).params = s.params := rfl
@[simp] theorem State.clearRecord_draws (s : State) : (s.clearRecord).draws = s.draws := rfl

/-! ### The delivery of a response -/

@[simp] theorem State.deliver_hr (s : State) (r : Response) : (s.deliver r).hr = s.hr := rfl
@[simp] theorem State.deliver_lr (s : State) (r : Response) : (s.deliver r).lr = s.lr := rfl
@[simp] theorem State.deliver_parent (s : State) (r : Response) : (s.deliver r).parent = s.parent := rfl
@[simp] theorem State.deliver_opt (s : State) (r : Response) : (s.deliver r).opt = s.opt := rfl
@[simp] theorem State.deliver_pay (s : State) (r : Response) : (s.deliver r).pay = s.pay := rfl
@[simp] theorem State.deliver_wire (s : State) (r : Response) : (s.deliver r).wire = s.wire := rfl
@[simp] theorem State.deliver_pc (s : State) (r : Response) : (s.deliver r).pc = s.pc + 1 := rfl
@[simp] theorem State.deliver_program (s : State) (r : Response) : (s.deliver r).program = s.program := rfl
@[simp] theorem State.deliver_responses (s : State) (r : Response) :
    (s.deliver r).responses = s.responses ++ [r] := rfl
@[simp] theorem State.deliver_params (s : State) (r : Response) : (s.deliver r).params = s.params := rfl
@[simp] theorem State.deliver_draws (s : State) (r : Response) : (s.deliver r).draws = s.draws := rfl

/-! ### A store in one of the spaces -/

@[simp] theorem State.store_opt_hr (s : State) (a : Nat) (bs : List Byte) :
    (s.store .opt a bs).hr = s.hr := rfl
@[simp] theorem State.store_opt_lr (s : State) (a : Nat) (bs : List Byte) :
    (s.store .opt a bs).lr = s.lr := rfl
@[simp] theorem State.store_opt_parent (s : State) (a : Nat) (bs : List Byte) :
    (s.store .opt a bs).parent = s.parent := rfl
@[simp] theorem State.store_opt_opt (s : State) (a : Nat) (bs : List Byte) :
    (s.store .opt a bs).opt = s.opt.store a bs := rfl
@[simp] theorem State.store_opt_pay (s : State) (a : Nat) (bs : List Byte) :
    (s.store .opt a bs).pay = s.pay := rfl
@[simp] theorem State.store_opt_wire (s : State) (a : Nat) (bs : List Byte) :
    (s.store .opt a bs).wire = s.wire := rfl
@[simp] theorem State.store_opt_pc (s : State) (a : Nat) (bs : List Byte) :
    (s.store .opt a bs).pc = s.pc := rfl
@[simp] theorem State.store_opt_program (s : State) (a : Nat) (bs : List Byte) :
    (s.store .opt a bs).program = s.program := rfl
@[simp] theorem State.store_opt_responses (s : State) (a : Nat) (bs : List Byte) :
    (s.store .opt a bs).responses = s.responses := rfl
@[simp] theorem State.store_opt_params (s : State) (a : Nat) (bs : List Byte) :
    (s.store .opt a bs).params = s.params := rfl
@[simp] theorem State.store_opt_draws (s : State) (a : Nat) (bs : List Byte) :
    (s.store .opt a bs).draws = s.draws := rfl

@[simp] theorem State.store_pay_hr (s : State) (a : Nat) (bs : List Byte) :
    (s.store .pay a bs).hr = s.hr := rfl
@[simp] theorem State.store_pay_lr (s : State) (a : Nat) (bs : List Byte) :
    (s.store .pay a bs).lr = s.lr := rfl
@[simp] theorem State.store_pay_parent (s : State) (a : Nat) (bs : List Byte) :
    (s.store .pay a bs).parent = s.parent := rfl
@[simp] theorem State.store_pay_opt (s : State) (a : Nat) (bs : List Byte) :
    (s.store .pay a bs).opt = s.opt := rfl
@[simp] theorem State.store_pay_pay (s : State) (a : Nat) (bs : List Byte) :
    (s.store .pay a bs).pay = s.pay.store a bs := rfl
@[simp] theorem State.store_pay_wire (s : State) (a : Nat) (bs : List Byte) :
    (s.store .pay a bs).wire = s.wire := rfl
@[simp] theorem State.store_pay_pc (s : State) (a : Nat) (bs : List Byte) :
    (s.store .pay a bs).pc = s.pc := rfl
@[simp] theorem State.store_pay_program (s : State) (a : Nat) (bs : List Byte) :
    (s.store .pay a bs).program = s.program := rfl
@[simp] theorem State.store_pay_responses (s : State) (a : Nat) (bs : List Byte) :
    (s.store .pay a bs).responses = s.responses := rfl
@[simp] theorem State.store_pay_params (s : State) (a : Nat) (bs : List Byte) :
    (s.store .pay a bs).params = s.params := rfl
@[simp] theorem State.store_pay_draws (s : State) (a : Nat) (bs : List Byte) :
    (s.store .pay a bs).draws = s.draws := rfl

@[simp] theorem State.store_wire_hr (s : State) (a : Nat) (bs : List Byte) :
    (s.store .wire a bs).hr = s.hr := rfl
@[simp] theorem State.store_wire_lr (s : State) (a : Nat) (bs : List Byte) :
    (s.store .wire a bs).lr = s.lr := rfl
@[simp] theorem State.store_wire_parent (s : State) (a : Nat) (bs : List Byte) :
    (s.store .wire a bs).parent = s.parent := rfl
@[simp] theorem State.store_wire_opt (s : State) (a : Nat) (bs : List Byte) :
    (s.store .wire a bs).opt = s.opt := rfl
@[simp] theorem State.store_wire_pay (s : State) (a : Nat) (bs : List Byte) :
    (s.store .wire a bs).pay = s.pay := rfl
@[simp] theorem State.store_wire_wire (s : State) (a : Nat) (bs : List Byte) :
    (s.store .wire a bs).wire = s.wire.store a bs := rfl
@[simp] theorem State.store_wire_pc (s : State) (a : Nat) (bs : List Byte) :
    (s.store .wire a bs).pc = s.pc := rfl
@[simp] theorem State.store_wire_program (s : State) (a : Nat) (bs : List Byte) :
    (s.store .wire a bs).program = s.program := rfl
@[simp] theorem State.store_wire_responses (s : State) (a : Nat) (bs : List Byte) :
    (s.store .wire a bs).responses = s.responses := rfl
@[simp] theorem State.store_wire_params (s : State) (a : Nat) (bs : List Byte) :
    (s.store .wire a bs).params = s.params := rfl
@[simp] theorem State.store_wire_draws (s : State) (a : Nat) (bs : List Byte) :
    (s.store .wire a bs).draws = s.draws := rfl

theorem State.store_hr (s : State) (sp : Space) (a : Nat) (bs : List Byte) : (s.store sp a bs).hr = s.hr := by
  cases sp <;> rfl
theorem State.store_lr (s : State) (sp : Space) (a : Nat) (bs : List Byte) : (s.store sp a bs).lr = s.lr := by
  cases sp <;> rfl
theorem State.store_parent (s : State) (sp : Space) (a : Nat) (bs : List Byte) : (s.store sp a bs).parent = s.parent := by
  cases sp <;> rfl
theorem State.store_pc (s : State) (sp : Space) (a : Nat) (bs : List Byte) : (s.store sp a bs).pc = s.pc := by
  cases sp <;> rfl
theorem State.store_program (s : State) (sp : Space) (a : Nat) (bs : List Byte) : (s.store sp a bs).program = s.program := by
  cases sp <;> rfl
theorem State.store_responses (s : State) (sp : Space) (a : Nat) (bs : List Byte) : (s.store sp a bs).responses = s.responses := by
  cases sp <;> rfl
theorem State.store_params (s : State) (sp : Space) (a : Nat) (bs : List Byte) : (s.store sp a bs).params = s.params := by
  cases sp <;> rfl
theorem State.store_draws (s : State) (sp : Space) (a : Nat) (bs : List Byte) : (s.store sp a bs).draws = s.draws := by
  cases sp <;> rfl

/-! ### The unspecified record of a failed DECODE -/

@[simp] theorem State.unspecifyRecord_hr (s : State) :
    (s.unspecifyRecord).hr = freeHeader (s.draws + 1) := rfl
@[simp] theorem State.unspecifyRecord_lr (s : State) :
    (s.unspecifyRecord).lr = freeLengths (s.draws + 1) s.lr := rfl
@[simp] theorem State.unspecifyRecord_parent (s : State) : (s.unspecifyRecord).parent = s.parent := rfl
@[simp] theorem State.unspecifyRecord_opt (s : State) :
    (s.unspecifyRecord).opt = Memory.unwritten (s.draws + 1) := rfl
@[simp] theorem State.unspecifyRecord_pay (s : State) :
    (s.unspecifyRecord).pay = Memory.unwritten (s.draws + 1) := rfl
@[simp] theorem State.unspecifyRecord_wire (s : State) : (s.unspecifyRecord).wire = s.wire := rfl
@[simp] theorem State.unspecifyRecord_pc (s : State) : (s.unspecifyRecord).pc = s.pc := rfl
@[simp] theorem State.unspecifyRecord_program (s : State) : (s.unspecifyRecord).program = s.program := rfl
@[simp] theorem State.unspecifyRecord_responses (s : State) :
    (s.unspecifyRecord).responses = s.responses := rfl
@[simp] theorem State.unspecifyRecord_params (s : State) : (s.unspecifyRecord).params = s.params := rfl
@[simp] theorem State.unspecifyRecord_draws (s : State) : (s.unspecifyRecord).draws = s.draws + 1 := rfl

/-! ### The write-backs of ENCODE -/

@[simp] theorem State.writeBackProtocol_hr (s : State) : s.writeBackProtocol.hr = s.hr := by
  unfold State.writeBackProtocol; split <;> rfl
@[simp] theorem State.writeBackProtocol_lr (s : State) : s.writeBackProtocol.lr = s.lr := by
  unfold State.writeBackProtocol; split <;> rfl
@[simp] theorem State.writeBackProtocol_opt (s : State) : s.writeBackProtocol.opt = s.opt := by
  unfold State.writeBackProtocol; split <;> rfl
@[simp] theorem State.writeBackProtocol_pay (s : State) : s.writeBackProtocol.pay = s.pay := by
  unfold State.writeBackProtocol; split <;> rfl
@[simp] theorem State.writeBackProtocol_wire (s : State) : s.writeBackProtocol.wire = s.wire := by
  unfold State.writeBackProtocol; split <;> rfl
@[simp] theorem State.writeBackProtocol_pc (s : State) : s.writeBackProtocol.pc = s.pc := by
  unfold State.writeBackProtocol; split <;> rfl
@[simp] theorem State.writeBackProtocol_program (s : State) : s.writeBackProtocol.program = s.program := by
  unfold State.writeBackProtocol; split <;> rfl
@[simp] theorem State.writeBackProtocol_responses (s : State) : s.writeBackProtocol.responses = s.responses := by
  unfold State.writeBackProtocol; split <;> rfl
@[simp] theorem State.writeBackProtocol_params (s : State) : s.writeBackProtocol.params = s.params := by
  unfold State.writeBackProtocol; split <;> rfl
@[simp] theorem State.writeBackProtocol_draws (s : State) : s.writeBackProtocol.draws = s.draws := by
  unfold State.writeBackProtocol; split <;> rfl
theorem State.writeBackProtocol_parent (s : State) :
    s.writeBackProtocol.parent =
      if s.parent.valid = 1 then { s.parent with proto := s.params.protoId } else s.parent := by
  unfold State.writeBackProtocol; split <;> rfl

@[simp] theorem State.writeBackRecord_lr (s : State) (h : BitVec 4) (c : Half) :
    (s.writeBackRecord h c).lr = s.lr := by
  unfold State.writeBackRecord; split <;> rfl
@[simp] theorem State.writeBackRecord_parent (s : State) (h : BitVec 4) (c : Half) :
    (s.writeBackRecord h c).parent = s.parent := by
  unfold State.writeBackRecord; split <;> rfl
@[simp] theorem State.writeBackRecord_opt (s : State) (h : BitVec 4) (c : Half) :
    (s.writeBackRecord h c).opt = s.opt := by
  unfold State.writeBackRecord; split <;> rfl
@[simp] theorem State.writeBackRecord_pay (s : State) (h : BitVec 4) (c : Half) :
    (s.writeBackRecord h c).pay = s.pay := by
  unfold State.writeBackRecord; split <;> rfl
@[simp] theorem State.writeBackRecord_wire (s : State) (h : BitVec 4) (c : Half) :
    (s.writeBackRecord h c).wire = s.wire := by
  unfold State.writeBackRecord; split <;> rfl
@[simp] theorem State.writeBackRecord_pc (s : State) (h : BitVec 4) (c : Half) :
    (s.writeBackRecord h c).pc = s.pc := by
  unfold State.writeBackRecord; split <;> rfl
@[simp] theorem State.writeBackRecord_program (s : State) (h : BitVec 4) (c : Half) :
    (s.writeBackRecord h c).program = s.program := by
  unfold State.writeBackRecord; split <;> rfl
@[simp] theorem State.writeBackRecord_responses (s : State) (h : BitVec 4) (c : Half) :
    (s.writeBackRecord h c).responses = s.responses := by
  unfold State.writeBackRecord; split <;> rfl
@[simp] theorem State.writeBackRecord_params (s : State) (h : BitVec 4) (c : Half) :
    (s.writeBackRecord h c).params = s.params := by
  unfold State.writeBackRecord; split <;> rfl
@[simp] theorem State.writeBackRecord_draws (s : State) (h : BitVec 4) (c : Half) :
    (s.writeBackRecord h c).draws = s.draws := by
  unfold State.writeBackRecord; split <;> rfl
theorem State.writeBackRecord_hr (s : State) (h : BitVec 4) (c : Half) :
    (s.writeBackRecord h c).hr = if s.params.encWriteback then { s.hr with hlw := h, csum := c } else s.hr := by
  unfold State.writeBackRecord; split <;> rfl

/-! ### The memories of an updated state -/

@[simp] theorem State.setHr_mem (s : State) (h : HeaderRecord) (sp : Space) :
    (s.setHr h).mem sp = s.mem sp := by
  cases sp <;> rfl
@[simp] theorem State.setLr_mem (s : State) (l : LengthRegs) (sp : Space) :
    (s.setLr l).mem sp = s.mem sp := by
  cases sp <;> rfl
@[simp] theorem State.setParent_mem (s : State) (p : ParentContext) (sp : Space) :
    (s.setParent p).mem sp = s.mem sp := by
  cases sp <;> rfl
@[simp] theorem State.clearRecord_mem (s : State) (sp : Space) : (s.clearRecord).mem sp = s.mem sp := by
  cases sp <;> rfl
@[simp] theorem State.deliver_mem (s : State) (r : Response) (sp : Space) :
    (s.deliver r).mem sp = s.mem sp := by
  cases sp <;> rfl
@[simp] theorem State.writeBackProtocol_mem (s : State) (sp : Space) : s.writeBackProtocol.mem sp = s.mem sp := by
  cases sp <;> simp [State.mem]
@[simp] theorem State.writeBackRecord_mem (s : State) (h : BitVec 4) (c : Half) (sp : Space) :
    (s.writeBackRecord h c).mem sp = s.mem sp := by
  cases sp <;> simp [State.mem]

/-- A store changes the memory of its space only. -/
theorem State.store_mem (s : State) (sp sp' : Space) (a : Nat) (bs : List Byte) :
    (s.store sp a bs).mem sp' = if sp' = sp then (s.mem sp).store a bs else s.mem sp' := by
  cases sp <;> cases sp' <;> rfl

end Sys2Proof.Machine
end

