-- ==== Sys2Proof/Laws/Memory.lean ====
section
/-! SUPPORT. What reading and storing bytes do, and that every memory operation keeps the canonical form. -/

namespace Sys2Proof.Machine

/-! ### Lookup -/

theorem Memory.lookup_append (l₁ l₂ : List Host.Cell) (a : Nat) :
    Memory.lookup (l₁ ++ l₂) a = (Memory.lookup l₁ a).or (Memory.lookup l₂ a) := by
  induction l₁ with
  | nil => rfl
  | cons c l ih => obtain ⟨k, b⟩ := c; by_cases h : k = a <;> simp [Memory.lookup, h, ih]

theorem Memory.lookup_filter (p : Nat → Bool) (l : List Host.Cell) (a : Nat) :
    Memory.lookup (l.filter (fun c => p c.1)) a = if p a then Memory.lookup l a else none := by
  induction l with
  | nil => simp [Memory.lookup]
  | cons c l ih =>
    obtain ⟨k, b⟩ := c
    by_cases hk : k = a
    · subst hk; by_cases hp : p k <;> simp [Memory.lookup, hp, ih]
    · by_cases hp : p k <;> simp [Memory.lookup, hp, hk, ih]

theorem Memory.lookup_cellsFrom (bs : List Byte) (base a : Nat) :
    Memory.lookup (Memory.cellsFrom base bs) a = if base ≤ a then bs[a - base]? else none := by
  induction bs generalizing base with
  | nil => simp [Memory.cellsFrom, Memory.lookup]
  | cons b bs ih =>
    rcases Nat.lt_trichotomy base a with h | h | h
    · have e : a - base = (a - (base + 1)) + 1 := by omega
      simp [Memory.cellsFrom, Memory.lookup, ih, h, Nat.ne_of_lt h, Nat.le_of_lt h, e]
    · subst h; simp [Memory.cellsFrom, Memory.lookup]
    · simp [Memory.cellsFrom, Memory.lookup, ih, show base ≠ a by omega, show ¬ base + 1 ≤ a by omega,
        show ¬ base ≤ a by omega]

/-! ### Read after store -/

@[simp] theorem Memory.store_draw (m : Memory) (a : Nat) (bs : List Byte) : (m.store a bs).draw = m.draw := rfl

theorem Memory.lookup_store (m : Memory) (base a : Nat) (bs : List Byte) :
    Memory.lookup (m.store base bs).cells a =
      if base ≤ a ∧ a < base + bs.length then bs[a - base]? else Memory.lookup m.cells a := by
  have hf := Memory.lookup_filter (fun k => decide (k < base)) m.cells a
  have hg := Memory.lookup_filter (fun k => decide (base + bs.length ≤ k)) m.cells a
  simp only [Memory.store, Memory.lookup_append, hf, hg, Memory.lookup_cellsFrom]
  by_cases h1 : base ≤ a
  · by_cases h2 : a < base + bs.length
    · have h3 : a - base < bs.length := by omega
      simp [h1, h2, h3, show ¬ a < base by omega]
    · simp [h1, h2, show ¬ a < base by omega, show base + bs.length ≤ a by omega,
        List.getElem?_eq_none (show bs.length ≤ a - base by omega)]
  · have h3 : a < base := by omega
    by_cases h4 : bs.length + base ≤ a <;> simp [h1, h3, show ¬ base + bs.length ≤ a by omega]

/-- A byte stored is the byte read. -/
theorem Memory.read_store_inside (sp : Space) (m : Memory) (base i : Nat) (bs : List Byte) (h : i < bs.length) :
    Memory.read sp (m.store base bs) (base + i) = bs[i] := by
  simp [Memory.read, Memory.lookup_store, h]

/-- Outside the stored bytes every byte reads as before. -/
theorem Memory.read_store_outside (sp : Space) (m : Memory) (base a : Nat) (bs : List Byte)
    (h : a < base ∨ base + bs.length ≤ a) :
    Memory.read sp (m.store base bs) a = Memory.read sp m a := by
  have : ¬ (base ≤ a ∧ a < base + bs.length) := by omega
  simp [Memory.read, Memory.lookup_store, this]

/-! ### The canonical form -/

theorem Memory.rising_iff (size lo : Nat) (l : List Host.Cell) :
    Memory.rising size lo l = true ↔
      l.Pairwise (fun c d => c.1 < d.1) ∧ ∀ c ∈ l, lo ≤ c.1 ∧ c.1 < size := by
  induction l generalizing lo with
  | nil => simp [Memory.rising]
  | cons c l ih =>
    simp only [Memory.rising, Bool.and_eq_true, decide_eq_true_eq, ih, List.pairwise_cons, List.mem_cons,
      forall_eq_or_imp]
    constructor
    · rintro ⟨⟨h1, h2⟩, hp, ha⟩
      exact ⟨⟨fun d hd => by have := ha d hd; omega, hp⟩, ⟨h1, h2⟩, fun d hd => by have := ha d hd; omega⟩
    · rintro ⟨⟨hc, hp⟩, ⟨h1, h2⟩, ha⟩
      exact ⟨⟨h1, h2⟩, hp, fun d hd => ⟨hc d hd, (ha d hd).2⟩⟩

theorem Memory.mem_cellsFrom (bs : List Byte) (base : Nat) (c : Host.Cell)
    (h : c ∈ Memory.cellsFrom base bs) : base ≤ c.1 ∧ c.1 < base + bs.length := by
  induction bs generalizing base with
  | nil => simp [Memory.cellsFrom] at h
  | cons b bs ih =>
    simp only [Memory.cellsFrom, List.mem_cons] at h
    rcases h with rfl | h
    · simp
    · have := ih _ h; simp; omega

theorem Memory.pairwise_cellsFrom (bs : List Byte) (base : Nat) :
    (Memory.cellsFrom base bs).Pairwise (fun c d => c.1 < d.1) := by
  induction bs generalizing base with
  | nil => simp [Memory.cellsFrom]
  | cons b bs ih =>
    simp only [Memory.cellsFrom, List.pairwise_cons]
    exact ⟨fun d hd => by have := Memory.mem_cellsFrom bs _ d hd; simp; omega, ih _⟩

/-- A memory nothing has been written to is in canonical form. -/
@[simp] theorem Memory.wf_unwritten (sp : Space) (n : Nat) : Memory.wf sp (Memory.unwritten n) = true := rfl

/-- A store inside the space keeps the canonical form. -/
theorem Memory.wf_store (sp : Space) (m : Memory) (base : Nat) (bs : List Byte) (hm : Memory.wf sp m = true)
    (hb : base + bs.length ≤ sp.size) : Memory.wf sp (m.store base bs) = true := by
  rw [Memory.wf, Memory.rising_iff] at hm ⊢
  obtain ⟨hp, ha⟩ := hm
  simp only [Memory.store, List.pairwise_append, List.mem_append, List.mem_filter, decide_eq_true_eq]
  refine ⟨⟨⟨hp.filter _, Memory.pairwise_cellsFrom bs base, fun c hc d hd => ?_⟩, hp.filter _,
    fun c hc d hd => ?_⟩, fun c hc => ?_⟩
  · have := Memory.mem_cellsFrom bs base d hd; omega
  · rcases hc with hc | hc
    · omega
    · have := Memory.mem_cellsFrom bs base c hc; omega
  · rcases hc with (hc | hc) | hc
    · exact ha c hc.1
    · have := Memory.mem_cellsFrom bs base c hc; omega
    · exact ha c hc.1

/-! ### The same for the state -/

/-- A byte stored is the byte read. -/
theorem State.readByte_store_inside (s : State) (sp : Space) (base i : Nat) (bs : List Byte) (h : i < bs.length) :
    (s.store sp base bs).readByte sp (base + i) = bs[i] := by
  simp [State.readByte, State.store_mem, Memory.read_store_inside, h]

/-- Every byte of another space, and every byte of the space outside the stored ones, reads as before. -/
theorem State.readByte_store_outside (s : State) (sp sp' : Space) (base a : Nat) (bs : List Byte)
    (h : sp' ≠ sp ∨ a < base ∨ base + bs.length ≤ a) :
    (s.store sp base bs).readByte sp' a = s.readByte sp' a := by
  by_cases e : sp' = sp
  · subst e
    have h' : a < base ∨ base + bs.length ≤ a := by simpa using h
    simp [State.readByte, State.store_mem, Memory.read_store_outside _ _ _ _ _ h']
  · simp [State.readByte, State.store_mem, e]

/-- Two states with the same memory read the same bytes. -/
theorem State.readByte_congr {s t : State} {sp : Space} (h : s.mem sp = t.mem sp) (a : Nat) :
    s.readByte sp a = t.readByte sp a := by
  simp [State.readByte, h]

@[simp] theorem State.length_readBytes (s : State) (sp : Space) (a n : Nat) :
    (s.readBytes sp a n).length = n := by
  induction n generalizing a with
  | zero => rfl
  | succ n ih => simp [State.readBytes, ih]

@[simp] theorem State.getElem_readBytes (s : State) (sp : Space) (a n i : Nat)
    (h : i < (s.readBytes sp a n).length) : (s.readBytes sp a n)[i] = s.readByte sp (a + i) := by
  induction n generalizing a i with
  | zero => simp at h
  | succ n ih =>
    cases i with
    | zero => rfl
    | succ i =>
      simp only [State.readBytes, List.getElem_cons_succ, ih]
      congr 1; omega

end Sys2Proof.Machine
end

