-- ==== Sys2Proof/Laws/Ops.lean ====
section
/-! SUPPORT. For each shared operation, once, everything it can do: cite these instead of unfolding it. -/

namespace Sys2Proof.Machine

/-! ### Responses -/

/-- What `respond` leaves. -/
theorem respond_next {v : DWord} {s t : State} (h : respond v s = .next t) : t = s.deliver ⟨.ok, v⟩ := by
  simpa [respond] using h.symm

/-- What `raise` leaves. -/
theorem raise_next {st : Status} {s t : State} (h : raise st s = .next t) : t = s.deliver ⟨st, 0⟩ := by
  simpa [raise] using h.symm

/-- What a failed DECODE leaves. -/
theorem failDecode_next {st : Status} {s t : State} (h : failDecode st s = .next t) :
    t = s.unspecifyRecord.deliver ⟨st, 0⟩ := raise_next h

/-! ### Operand forms -/

theorem withOperand_fits {n : Nat} {imm : Word} {s : State} {run : BitVec n → Host.Outcome State Fault Refusal}
    (h : imm.toNat < 2 ^ n) : withOperand n imm s run = run (imm.setWidth n) := by
  simp [withOperand, h]

theorem withOperand_wide {n : Nat} {imm : Word} {s : State} {run : BitVec n → Host.Outcome State Fault Refusal}
    (h : 2 ^ n ≤ imm.toNat) : withOperand n imm s run = .next (s.deliver ⟨.operandOutOfRange, 0⟩) := by
  simp [withOperand, raise, Nat.not_lt.mpr h]

/-- An operand given as a value of its width arrives as that value. -/
@[simp] theorem withOperand_value {n : Nat} (hn : n ≤ 32) (v : BitVec n) (s : State)
    (run : BitVec n → Host.Outcome State Fault Refusal) : withOperand n (v.setWidth 32) s run = run v := by
  have h1 : v.toNat < 2 ^ n := v.isLt
  have h2 : (v.setWidth 32).toNat = v.toNat := by
    rw [BitVec.toNat_setWidth, Nat.mod_eq_of_lt]
    exact Nat.lt_of_lt_of_le h1 (Nat.pow_le_pow_right (by decide) hn)
  have h3 : (v.setWidth 32).setWidth n = v := by
    apply BitVec.eq_of_toNat_eq
    rw [BitVec.toNat_setWidth, h2, Nat.mod_eq_of_lt h1]
  rw [withOperand_fits (by omega), h3]

/-- A command with no operand, `imm = 0`. -/
theorem withOperand_none (s : State) (run : BitVec 0 → Host.Outcome State Fault Refusal) :
    withOperand 0 (0 : Word) s run = run 0 := rfl

/-- The same in the form simp brings a zero operand to. -/
@[simp] theorem withOperand_none' (s : State) (run : BitVec 0 → Host.Outcome State Fault Refusal) :
    withOperand 0 (0#32) s run = run 0 := rfl

theorem withOperand_cases {n : Nat} {imm : Word} {s : State} {run : BitVec n → Host.Outcome State Fault Refusal}
    {o : Host.Outcome State Fault Refusal} (h : withOperand n imm s run = o) :
    (imm.toNat < 2 ^ n ∧ run (imm.setWidth n) = o) ∨
      (2 ^ n ≤ imm.toNat ∧ o = .next (s.deliver ⟨.operandOutOfRange, 0⟩)) := by
  by_cases hw : imm.toNat < 2 ^ n
  · exact .inl ⟨hw, by rw [← h, withOperand_fits hw]⟩
  · exact .inr ⟨by omega, by rw [← h, withOperand_wide (by omega)]⟩

theorem withAddress_cases {sp : Space} {a : Half} {s : State} {run : Nat → Host.Outcome State Fault Refusal}
    {o : Host.Outcome State Fault Refusal} (h : withAddress sp a s run = o) :
    (a.toNat < sp.size ∧ run a.toNat = o) ∨
      (sp.size ≤ a.toNat ∧ o = .next (s.deliver ⟨.addressOutOfRange, 0⟩)) := by
  by_cases hw : a.toNat < sp.size
  · exact .inl ⟨hw, by rw [← h]; simp [withAddress, hw]⟩
  · exact .inr ⟨by omega, by rw [← h]; simp [withAddress, hw, raise]⟩

theorem withWindow_cases {a len : Half} {s : State} {run : Nat → Nat → Host.Outcome State Fault Refusal}
    {o : Host.Outcome State Fault Refusal} (h : withWindow a len s run = o) :
    (a.toNat + len.toNat ≤ Config.wireSize ∧ run a.toNat len.toNat = o) ∨
      (Config.wireSize < a.toNat + len.toNat ∧ o = .next (s.deliver ⟨.addressOutOfRange, 0⟩)) := by
  by_cases hw : a.toNat + len.toNat ≤ Config.wireSize
  · exact .inl ⟨hw, by rw [← h]; simp [withWindow, hw]⟩
  · exact .inr ⟨by omega, by rw [← h]; simp [withWindow, hw, raise]⟩

theorem setRegister_cases {n : Nat} {imm : Word} {s : State} {write : BitVec n → State}
    {o : Host.Outcome State Fault Refusal} (h : setRegister n imm s write = o) :
    (imm.toNat < 2 ^ n ∧ o = .next ((write (imm.setWidth n)).deliver ⟨.ok, 0⟩)) ∨
      (2 ^ n ≤ imm.toNat ∧ o = .next (s.deliver ⟨.operandOutOfRange, 0⟩)) := by
  rcases withOperand_cases h with ⟨hw, h⟩ | h
  · exact .inl ⟨hw, h.symm⟩
  · exact .inr h

theorem getRegister_cases {n : Nat} {imm : Word} {s : State} {v : BitVec n}
    {o : Host.Outcome State Fault Refusal} (h : getRegister imm s v = o) :
    (imm = 0 ∧ o = .next (s.deliver ⟨.ok, v.setWidth 64⟩)) ∨
      (imm ≠ 0 ∧ o = .next (s.deliver ⟨.operandOutOfRange, 0⟩)) := by
  rcases withOperand_cases h with ⟨hw, h⟩ | ⟨hw, h⟩
  · refine .inl ⟨BitVec.eq_of_toNat_eq ?_, h.symm⟩
    simpa using hw
  · refine .inr ⟨fun e => ?_, h⟩
    subst e; simp at hw

theorem withOptionIndex_cases {last : Nat} {s : State} {v : DWord} {o : Host.Outcome State Fault Refusal}
    (h : withOptionIndex last s v = o) :
    (last < s.lr.optlen.toNat ∧ o = .next (s.deliver ⟨.ok, v⟩)) ∨
      (s.lr.optlen.toNat ≤ last ∧ o = .next (s.deliver ⟨.optionAccessOutOfRange, 0⟩)) := by
  by_cases hw : last < s.lr.optlen.toNat
  · exact .inl ⟨hw, by rw [← h]; simp [withOptionIndex, hw, respond]⟩
  · exact .inr ⟨by omega, by rw [← h]; simp [withOptionIndex, hw, raise]⟩

/-! ### The codec's own operations -/

/-- What ENCODE can do with `imm = 0`. -/
theorem execEncode_cases {s : State} {o : Host.Outcome State Fault Refusal} (h : execEncode 0 s = o) :
    (layoutBroken (effectiveLength s.hr.hlw) s.lr.optlen = true ∧ o = .next (s.deliver ⟨.layoutInvariant, 0⟩)) ∨
      (layoutBroken (effectiveLength s.hr.hlw) s.lr.optlen = false ∧
        Config.totalMax < s.totalLength (effectiveLength s.hr.hlw) ∧ o = .next (s.deliver ⟨.lengthOverflow, 0⟩)) ∨
      (layoutBroken (effectiveLength s.hr.hlw) s.lr.optlen = false ∧
        s.totalLength (effectiveLength s.hr.hlw) ≤ Config.totalMax ∧
        o = .next ((s.encoded (effectiveLength s.hr.hlw)).deliver
          ⟨.ok, BitVec.ofNat 64 (s.totalLength (effectiveLength s.hr.hlw))⟩)) := by
  subst h
  simp only [execEncode, withOperand_none, raise, respond]
  by_cases h1 : layoutBroken (effectiveLength s.hr.hlw) s.lr.optlen = true
  · simp [h1]
  · by_cases h2 : Config.totalMax < s.totalLength (effectiveLength s.hr.hlw)
    · simp [h1, h2]
    · simp [h1, h2, Nat.not_lt.mp h2]

/-- The bytes a range of the assembled sequence consists of: 20 base bytes, then the options region, then the payload. -/
@[simp] theorem length_baseBytes (r : HeaderRecord) (h : BitVec 4) : (baseBytes r h).length = 20 := rfl

/-- The options region fills what the nibble declares, where the layout is not broken. -/
theorem State.length_optionBytes (s : State) (h : BitVec 4) (hb : layoutBroken h s.lr.optlen = false) :
    (s.optionBytes h).length = optionsRegion h := by
  simp only [layoutBroken, Bool.or_eq_false_iff, Bool.and_eq_false_iff, decide_eq_false_iff_not] at hb
  unfold State.optionBytes
  split
  · simp only [List.length_append, State.length_readBytes, List.length_replicate]
    omega
  · have : h.toNat = 5 := by simp [Config.hlwMin] at *; omega
    simp [optionsRegion, this, Config.baseLen]

/-- ENCODE assembles as many bytes as its total length says. -/
theorem State.length_assembled (s : State) (h : BitVec 4) (hb : layoutBroken h s.lr.optlen = false) :
    (s.assembled h).length = s.totalLength h := by
  have h5 : 5 ≤ h.toNat := by
    simp only [layoutBroken, Bool.or_eq_false_iff, decide_eq_false_iff_not] at hb
    exact Nat.not_lt.mp hb.1
  simp [State.assembled, State.length_optionBytes s h hb, State.totalLength, optionsRegion, Config.baseLen]
  omega

/-- Filling in the checksum changes no length. -/
@[simp] theorem length_patchChecksum (bs : List Byte) (c : Half) : (patchChecksum bs c).length = bs.length := by
  simp [patchChecksum]

@[simp] theorem State.length_encodedBytes (s : State) (h : BitVec 4) :
    (s.encodedBytes h).length = (s.assembled h).length := by
  unfold State.encodedBytes; split <;> simp

/-- The options DECODE takes are at most 40 bytes and lie in the window. -/
theorem optionsTaken_le (h : BitVec 4) (len : Nat) : optionsTaken h len ≤ 40 ∧ optionsTaken h len ≤ len - 20 := by
  have := h.isLt
  unfold optionsTaken
  split
  · simp only [optionsRegion, Config.baseLen]; omega
  · omega

end Sys2Proof.Machine
end

