-- ==== Sys2Proof/Laws/Codec.lean ====
section
/-! SUPPORT. What a successful ENCODE and a successful DECODE leave, one lemma per field, and what DECODE can do. -/

namespace Sys2Proof.Machine

/-! ### The state a successful ENCODE leaves -/

/-- The two layouts ENCODE refuses, as numbers. -/
theorem layoutBroken_iff (h : BitVec 4) (n : BitVec 6) :
    layoutBroken h n = true ↔ h.toNat < 5 ∨ 5 < h.toNat ∧ 4 * h.toNat - 20 < n.toNat := by
  simp only [layoutBroken, Bool.or_eq_true, Bool.and_eq_true, decide_eq_true_eq]
  rfl

@[simp] theorem State.encoded_opt (s : State) (h : BitVec 4) : (s.encoded h).opt = s.opt := by
  simp [State.encoded]

@[simp] theorem State.encoded_pay (s : State) (h : BitVec 4) : (s.encoded h).pay = s.pay := by
  simp [State.encoded]

@[simp] theorem State.encoded_pc (s : State) (h : BitVec 4) : (s.encoded h).pc = s.pc := by
  simp [State.encoded]

@[simp] theorem State.encoded_program (s : State) (h : BitVec 4) : (s.encoded h).program = s.program := by
  simp [State.encoded]

@[simp] theorem State.encoded_responses (s : State) (h : BitVec 4) : (s.encoded h).responses = s.responses := by
  simp [State.encoded]

@[simp] theorem State.encoded_params (s : State) (h : BitVec 4) : (s.encoded h).params = s.params := by
  simp [State.encoded]

@[simp] theorem State.encoded_draws (s : State) (h : BitVec 4) : (s.encoded h).draws = s.draws := by
  simp [State.encoded]

@[simp] theorem State.encoded_wire (s : State) (h : BitVec 4) :
    (s.encoded h).wire = s.wire.store 0 (s.encodedBytes h) := by
  simp [State.encoded]

@[simp] theorem State.encoded_lr (s : State) (h : BitVec 4) :
    (s.encoded h).lr = { s.lr with wlen := BitVec.ofNat 16 (s.totalLength h) } := by
  simp [State.encoded]

theorem State.encoded_hr (s : State) (h : BitVec 4) :
    (s.encoded h).hr =
      if s.params.encWriteback then { s.hr with hlw := h, csum := s.emittedChecksum h } else s.hr := by
  simp [State.encoded, State.writeBackRecord_hr]

theorem State.encoded_parent (s : State) (h : BitVec 4) :
    (s.encoded h).parent =
      if s.parent.valid = 1 then { s.parent with proto := s.params.protoId } else s.parent := by
  simp [State.encoded, State.writeBackProtocol_parent]

/-! ### The state a successful DECODE leaves -/

@[simp] theorem State.populate_parent (s : State) (off len : Nat) : (s.populate off len).parent = s.parent := rfl

@[simp] theorem State.populate_wire (s : State) (off len : Nat) : (s.populate off len).wire = s.wire := rfl

@[simp] theorem State.populate_pc (s : State) (off len : Nat) : (s.populate off len).pc = s.pc := rfl

@[simp] theorem State.populate_program (s : State) (off len : Nat) : (s.populate off len).program = s.program := rfl

@[simp] theorem State.populate_responses (s : State) (off len : Nat) : (s.populate off len).responses = s.responses := rfl

@[simp] theorem State.populate_params (s : State) (off len : Nat) : (s.populate off len).params = s.params := rfl

@[simp] theorem State.populate_draws (s : State) (off len : Nat) : (s.populate off len).draws = s.draws := rfl

@[simp] theorem State.populate_hr (s : State) (off len : Nat) :
    (s.populate off len).hr = s.windowHeader off := rfl

@[simp] theorem State.populate_lr (s : State) (off len : Nat) :
    (s.populate off len).lr =
      { s.lr with
        optlen := BitVec.ofNat 6 (optionsTaken (s.windowHeader off).hlw len)
        paylen := BitVec.ofNat 16 (len - Config.baseLen - optionsTaken (s.windowHeader off).hlw len)
        payvalid := 1 } := rfl

@[simp] theorem State.populate_opt (s : State) (off len : Nat) :
    (s.populate off len).opt =
      s.opt.store 0 (s.readBytes .wire (off + Config.baseLen) (optionsTaken (s.windowHeader off).hlw len)) := rfl

@[simp] theorem State.readBytes_setHr (s : State) (h : HeaderRecord) (sp : Space) (a n : Nat) :
    (s.setHr h).readBytes sp a n = s.readBytes sp a n := by
  induction n generalizing a with
  | zero => rfl
  | succ n ih => simp [State.readBytes, ih, State.readByte]

@[simp] theorem State.populate_pay (s : State) (off len : Nat) :
    (s.populate off len).pay =
      s.pay.store 0
        (s.readBytes .wire (off + Config.baseLen + optionsTaken (s.windowHeader off).hlw len)
          (len - Config.baseLen - optionsTaken (s.windowHeader off).hlw len)) := rfl

/-- What DECODE can do with an operand that fits. -/
theorem execDecode_cases {s : State} {off len : Half} {o : Host.Outcome State Fault Refusal}
    (h : execDecode off (len.setWidth 32) s = o) :
    (65536 < off.toNat + len.toNat ∧ o = .next (s.deliver ⟨.addressOutOfRange, 0⟩)) ∨
      off.toNat + len.toNat ≤ 65536 ∧
        ((len.toNat < 14 ∧ o = .next (s.unspecifyRecord.deliver ⟨.bufferUnderrun, 0⟩)) ∨
          (14 ≤ len.toNat ∧ (s.windowHeader off.toNat).hlw.toNat < 5 ∧
            o = .next (s.unspecifyRecord.deliver ⟨.headerTooShort, 0⟩)) ∨
          (14 ≤ len.toNat ∧ 5 ≤ (s.windowHeader off.toNat).hlw.toNat ∧ len.toNat < 20 ∧
            o = .next (s.unspecifyRecord.deliver ⟨.bufferUnderrun, 0⟩)) ∨
          (20 ≤ len.toNat ∧ 5 ≤ (s.windowHeader off.toNat).hlw.toNat ∧
            o = .next ((s.clearRecord.populate off.toNat len.toNat).deliver ⟨.ok, 0⟩))) := by
  subst h
  simp only [execDecode, withOperand_value (by decide : 16 ≤ 32), withWindow, failDecode, raise, respond,
    Config.wireSize, Config.hlwMin, Config.baseLen, State.windowHeader]
  by_cases h1 : off.toNat + len.toNat ≤ 65536
  · by_cases h2 : len.toNat < 14
    · simp [h1, h2]
    · by_cases h3 : (unpackLength (s.read16 .wire (off.toNat + 12))).toNat < 5
      · simp [h1, h2, h3, Nat.not_lt.mp h2]
      · by_cases h4 : len.toNat < 20
        · simp [h1, h2, h3, h4, Nat.not_lt.mp h2, Nat.not_lt.mp h3]
        · simp [h1, h2, h3, h4, Nat.not_lt.mp h3, Nat.not_lt.mp h4]
  · simp [h1]; omega

end Sys2Proof.Machine
end

