-- ==== Sys2Proof/Laws/Encoding.lean ====
section
/-! SUPPORT. The fields of a command word that was put together from its fields (30_encoding.md R87). -/

namespace Sys2Proof

theorem toNat_commandWord (op sp : BitVec 8) (a : Half) (imm : Word) :
    (commandWord op sp a imm).toNat =
      op.toNat * 2 ^ 56 + sp.toNat * 2 ^ 48 + a.toNat * 2 ^ 32 + imm.toNat := by
  have h1 := op.isLt
  have h2 := sp.isLt
  have h3 := a.isLt
  have h4 := imm.isLt
  simp only [commandWord, BitVec.toNat_append]
  rw [← Nat.shiftLeft_add_eq_or_of_lt h4, ← Nat.shiftLeft_add_eq_or_of_lt h3, ← Nat.shiftLeft_add_eq_or_of_lt h2]
  simp only [Nat.shiftLeft_eq]
  omega

@[simp] theorem opField_commandWord (op sp : BitVec 8) (a : Half) (imm : Word) :
    opField (commandWord op sp a imm) = op := by
  have h1 := op.isLt
  have h2 := sp.isLt
  have h3 := a.isLt
  have h4 := imm.isLt
  apply BitVec.eq_of_toNat_eq
  simp only [opField, BitVec.extractLsb'_toNat, toNat_commandWord, Nat.shiftRight_eq_div_pow]
  omega

@[simp] theorem spField_commandWord (op sp : BitVec 8) (a : Half) (imm : Word) :
    spField (commandWord op sp a imm) = sp := by
  have h1 := op.isLt
  have h2 := sp.isLt
  have h3 := a.isLt
  have h4 := imm.isLt
  apply BitVec.eq_of_toNat_eq
  simp only [spField, BitVec.extractLsb'_toNat, toNat_commandWord, Nat.shiftRight_eq_div_pow]
  omega

@[simp] theorem aField_commandWord (op sp : BitVec 8) (a : Half) (imm : Word) :
    aField (commandWord op sp a imm) = a := by
  have h1 := op.isLt
  have h2 := sp.isLt
  have h3 := a.isLt
  have h4 := imm.isLt
  apply BitVec.eq_of_toNat_eq
  simp only [aField, BitVec.extractLsb'_toNat, toNat_commandWord, Nat.shiftRight_eq_div_pow]
  omega

@[simp] theorem immField_commandWord (op sp : BitVec 8) (a : Half) (imm : Word) :
    immField (commandWord op sp a imm) = imm := by
  have h1 := op.isLt
  have h2 := sp.isLt
  have h3 := a.isLt
  have h4 := imm.isLt
  apply BitVec.eq_of_toNat_eq
  simp only [immField, BitVec.extractLsb'_toNat, toNat_commandWord, Nat.shiftRight_eq_div_pow]
  omega

/-- A word is its four fields. -/
theorem commandWord_fields (c : DWord) : commandWord (opField c) (spField c) (aField c) (immField c) = c := by
  have h := c.isLt
  apply BitVec.eq_of_toNat_eq
  rw [toNat_commandWord]
  simp only [opField, spField, aField, immField, BitVec.extractLsb'_toNat, Nat.shiftRight_eq_div_pow]
  omega

@[simp] theorem Space.ofSelector_selector (sp : Space) : Space.ofSelector sp.selector = some sp := by
  cases sp <;> rfl

theorem Space.selector_of_ofSelector {v : BitVec 8} {sp : Space} (h : Space.ofSelector v = some sp) :
    sp.selector = v := by
  unfold Space.ofSelector at h
  split at h
  · cases h; exact Eq.symm ‹_›
  · split at h
    · cases h; exact Eq.symm ‹_›
    · split at h
      · cases h; exact Eq.symm ‹_›
      · cases h

/-- A selector names a space exactly when it is at most 2 (20_memory.md R67). -/
theorem Space.ofSelector_isSome (v : BitVec 8) : (Space.ofSelector v).isSome = true ↔ v.toNat ≤ 2 := by
  revert v; decide

end Sys2Proof
end

