-- ==== Sys2Proof/Laws/PerInstr.lean ====
section
/-! SUPPORT. A statement made for every command as syntax, one lemma per constructor: the encoder keeps the operand
and puts the opcode of the command's own table row (30_encoding.md R87, R92, R94). -/

namespace Sys2Proof.Laws.EncodedFields

/-- The encoded word has the command's operand in `imm` and the opcode of the command's table row in `op`. -/
def Statement (i : Instr) : Prop :=
  immField (encodeWord i) = i.imm ∧ opField (encodeWord i) = opField i.tableRow.pattern

theorem clear (imm : Word) : Statement (.clear imm) :=
  ⟨immField_commandWord _ _ _ _, by simp only [encodeWord, opField_commandWord, Instr.tableRow]; decide⟩

theorem rstCsum (imm : Word) : Statement (.rstCsum imm) :=
  ⟨immField_commandWord _ _ _ _, by simp only [encodeWord, opField_commandWord, Instr.tableRow]; decide⟩

theorem setSport (imm : Word) : Statement (.setSport imm) :=
  ⟨immField_commandWord _ _ _ _, by simp only [encodeWord, opField_commandWord, Instr.tableRow]; decide⟩

theorem setDport (imm : Word) : Statement (.setDport imm) :=
  ⟨immField_commandWord _ _ _ _, by simp only [encodeWord, opField_commandWord, Instr.tableRow]; decide⟩

theorem setSeq (imm : Word) : Statement (.setSeq imm) :=
  ⟨immField_commandWord _ _ _ _, by simp only [encodeWord, opField_commandWord, Instr.tableRow]; decide⟩

theorem setAck (imm : Word) : Statement (.setAck imm) :=
  ⟨immField_commandWord _ _ _ _, by simp only [encodeWord, opField_commandWord, Instr.tableRow]; decide⟩

theorem setHlw (imm : Word) : Statement (.setHlw imm) :=
  ⟨immField_commandWord _ _ _ _, by simp only [encodeWord, opField_commandWord, Instr.tableRow]; decide⟩

theorem setFlags (imm : Word) : Statement (.setFlags imm) :=
  ⟨immField_commandWord _ _ _ _, by simp only [encodeWord, opField_commandWord, Instr.tableRow]; decide⟩

theorem setWin (imm : Word) : Statement (.setWin imm) :=
  ⟨immField_commandWord _ _ _ _, by simp only [encodeWord, opField_commandWord, Instr.tableRow]; decide⟩

theorem setCsum (imm : Word) : Statement (.setCsum imm) :=
  ⟨immField_commandWord _ _ _ _, by simp only [encodeWord, opField_commandWord, Instr.tableRow]; decide⟩

theorem setUrg (imm : Word) : Statement (.setUrg imm) :=
  ⟨immField_commandWord _ _ _ _, by simp only [encodeWord, opField_commandWord, Instr.tableRow]; decide⟩

theorem setOpts (imm : Word) : Statement (.setOpts imm) :=
  ⟨immField_commandWord _ _ _ _, by simp only [encodeWord, opField_commandWord, Instr.tableRow]; decide⟩

theorem setPay (imm : Word) : Statement (.setPay imm) :=
  ⟨immField_commandWord _ _ _ _, by simp only [encodeWord, opField_commandWord, Instr.tableRow]; decide⟩

theorem clrPay (imm : Word) : Statement (.clrPay imm) :=
  ⟨immField_commandWord _ _ _ _, by simp only [encodeWord, opField_commandWord, Instr.tableRow]; decide⟩

theorem getSport (imm : Word) : Statement (.getSport imm) :=
  ⟨immField_commandWord _ _ _ _, by simp only [encodeWord, opField_commandWord, Instr.tableRow]; decide⟩

theorem getDport (imm : Word) : Statement (.getDport imm) :=
  ⟨immField_commandWord _ _ _ _, by simp only [encodeWord, opField_commandWord, Instr.tableRow]; decide⟩

theorem getSeq (imm : Word) : Statement (.getSeq imm) :=
  ⟨immField_commandWord _ _ _ _, by simp only [encodeWord, opField_commandWord, Instr.tableRow]; decide⟩

theorem getAck (imm : Word) : Statement (.getAck imm) :=
  ⟨immField_commandWord _ _ _ _, by simp only [encodeWord, opField_commandWord, Instr.tableRow]; decide⟩

theorem getHlw (imm : Word) : Statement (.getHlw imm) :=
  ⟨immField_commandWord _ _ _ _, by simp only [encodeWord, opField_commandWord, Instr.tableRow]; decide⟩

theorem getFlags (imm : Word) : Statement (.getFlags imm) :=
  ⟨immField_commandWord _ _ _ _, by simp only [encodeWord, opField_commandWord, Instr.tableRow]; decide⟩

theorem getWin (imm : Word) : Statement (.getWin imm) :=
  ⟨immField_commandWord _ _ _ _, by simp only [encodeWord, opField_commandWord, Instr.tableRow]; decide⟩

theorem getCsum (imm : Word) : Statement (.getCsum imm) :=
  ⟨immField_commandWord _ _ _ _, by simp only [encodeWord, opField_commandWord, Instr.tableRow]; decide⟩

theorem getUrg (imm : Word) : Statement (.getUrg imm) :=
  ⟨immField_commandWord _ _ _ _, by simp only [encodeWord, opField_commandWord, Instr.tableRow]; decide⟩

theorem getOptlen (imm : Word) : Statement (.getOptlen imm) :=
  ⟨immField_commandWord _ _ _ _, by simp only [encodeWord, opField_commandWord, Instr.tableRow]; decide⟩

theorem getPaylen (imm : Word) : Statement (.getPaylen imm) :=
  ⟨immField_commandWord _ _ _ _, by simp only [encodeWord, opField_commandWord, Instr.tableRow]; decide⟩

theorem getPayvalid (imm : Word) : Statement (.getPayvalid imm) :=
  ⟨immField_commandWord _ _ _ _, by simp only [encodeWord, opField_commandWord, Instr.tableRow]; decide⟩

theorem getWlen (imm : Word) : Statement (.getWlen imm) :=
  ⟨immField_commandWord _ _ _ _, by simp only [encodeWord, opField_commandWord, Instr.tableRow]; decide⟩

theorem setPsrc (imm : Word) : Statement (.setPsrc imm) :=
  ⟨immField_commandWord _ _ _ _, by simp only [encodeWord, opField_commandWord, Instr.tableRow]; decide⟩

theorem setPdst (imm : Word) : Statement (.setPdst imm) :=
  ⟨immField_commandWord _ _ _ _, by simp only [encodeWord, opField_commandWord, Instr.tableRow]; decide⟩

theorem setPproto (imm : Word) : Statement (.setPproto imm) :=
  ⟨immField_commandWord _ _ _ _, by simp only [encodeWord, opField_commandWord, Instr.tableRow]; decide⟩

theorem setPvalid (imm : Word) : Statement (.setPvalid imm) :=
  ⟨immField_commandWord _ _ _ _, by simp only [encodeWord, opField_commandWord, Instr.tableRow]; decide⟩

theorem getPsrc (imm : Word) : Statement (.getPsrc imm) :=
  ⟨immField_commandWord _ _ _ _, by simp only [encodeWord, opField_commandWord, Instr.tableRow]; decide⟩

theorem getPdst (imm : Word) : Statement (.getPdst imm) :=
  ⟨immField_commandWord _ _ _ _, by simp only [encodeWord, opField_commandWord, Instr.tableRow]; decide⟩

theorem getPproto (imm : Word) : Statement (.getPproto imm) :=
  ⟨immField_commandWord _ _ _ _, by simp only [encodeWord, opField_commandWord, Instr.tableRow]; decide⟩

theorem getPvalid (imm : Word) : Statement (.getPvalid imm) :=
  ⟨immField_commandWord _ _ _ _, by simp only [encodeWord, opField_commandWord, Instr.tableRow]; decide⟩

theorem stb (sp : Space) (a : Half) (imm : Word) : Statement (.stb sp a imm) :=
  ⟨immField_commandWord _ _ _ _, by simp only [encodeWord, opField_commandWord, Instr.tableRow]; decide⟩

theorem ldb (sp : Space) (a : Half) (imm : Word) : Statement (.ldb sp a imm) :=
  ⟨immField_commandWord _ _ _ _, by simp only [encodeWord, opField_commandWord, Instr.tableRow]; decide⟩

theorem encode (imm : Word) : Statement (.encode imm) :=
  ⟨immField_commandWord _ _ _ _, by simp only [encodeWord, opField_commandWord, Instr.tableRow]; decide⟩

theorem decode (a : Half) (imm : Word) : Statement (.decode a imm) :=
  ⟨immField_commandWord _ _ _ _, by simp only [encodeWord, opField_commandWord, Instr.tableRow]; decide⟩

theorem cksum (a : Half) (imm : Word) : Statement (.cksum a imm) :=
  ⟨immField_commandWord _ _ _ _, by simp only [encodeWord, opField_commandWord, Instr.tableRow]; decide⟩

theorem mpEnabled (imm : Word) : Statement (.mpEnabled imm) :=
  ⟨immField_commandWord _ _ _ _, by simp only [encodeWord, opField_commandWord, Instr.tableRow]; decide⟩

theorem mpSubtype (imm : Word) : Statement (.mpSubtype imm) :=
  ⟨immField_commandWord _ _ _ _, by simp only [encodeWord, opField_commandWord, Instr.tableRow]; decide⟩

theorem mpKey (imm : Word) : Statement (.mpKey imm) :=
  ⟨immField_commandWord _ _ _ _, by simp only [encodeWord, opField_commandWord, Instr.tableRow]; decide⟩

theorem mpToken (imm : Word) : Statement (.mpToken imm) :=
  ⟨immField_commandWord _ _ _ _, by simp only [encodeWord, opField_commandWord, Instr.tableRow]; decide⟩

end Sys2Proof.Laws.EncodedFields
end

