-- ==== Sys2Proof/Tests/Slice0.lean ====
section
/-! SUPPORT. The model's own tests. Expected results are from 95_test_vectors.md (the vector's id is in the docstring)
or from 30_encoding.md R87, R92, R95. The second half gives, for every statement with hypotheses, a state and operands
that meet them together. -/

namespace Sys2Proof.Tests

open Sys2Proof Sys2Proof.Machine Sys2Proof.Claims

/-! ### Small states and observations -/

/-- The response a command gives. -/
def answer (i : Instr) (s : State) : Option Response :=
  match exec i s with
  | .next t => t.responses.getLast?
  | .fault _ => none
  | .refused _ => none

/-- The state after a command; the state before where it gives none. -/
def after (i : Instr) (s : State) : State :=
  match exec i s with
  | .next t => t
  | .fault _ => s
  | .refused _ => s

/-- The state after one step; the state before where there is none. -/
def stepped (s : State) : State :=
  match step s with
  | .next t => t
  | .fault _ => s
  | .refused _ => s

/-- The response of one step at a word. -/
def answerWord (c : DWord) : Option Response :=
  match step { State.reset with program := [c] } with
  | .next t => t.responses.getLast?
  | .fault _ => none
  | .refused _ => none

/-- Reset, then bytes written to WIRE from an address on. -/
def onWire (a : Nat) (bs : List Byte) : State := { State.reset with wire := { cells := Memory.cellsFrom a bs, draw := 0 } }

/-- Reset, then option bytes written from index 0 on, with `LR.OPTLEN = n`. -/
def withOptions (n : BitVec 6) (bs : List Byte) : State :=
  { State.reset with
    opt := { cells := Memory.cellsFrom 0 bs, draw := 0 }
    lr := { optlen := n, paylen := 0, payvalid := 0, wlen := 0 } }

/-- Reset, then `HR.HLW`, `LR.OPTLEN` and an attached payload length. -/
def withLayout (h : BitVec 4) (n : BitVec 6) (p : Half) : State :=
  { State.reset with
    hr := { HeaderRecord.zero with hlw := h }
    lr := { optlen := n, paylen := p, payvalid := 1, wlen := 0 } }

/-- Reset, then a record. -/
def withRecord (h : HeaderRecord) : State := { State.reset with hr := h }

/-- Reset, then a parent. -/
def withParent (p : ParentContext) : State := { State.reset with parent := p }

/-- Twenty option bytes `00`, then the ones given. -/
def optionsFrom20 (n : BitVec 6) (bs : List Byte) : State := withOptions n (List.replicate 20 0 ++ bs)

/-- The window of V-D1. -/
def windowD1 : List Byte :=
  [0x00, 0x01, 0x00, 0x02, 0x01, 0x02, 0x03, 0x04, 0x05, 0x06, 0x07, 0x08, 0x60, 0x10, 0x01, 0x00, 0x26, 0xB6, 0x00,
    0x00] ++
    [0x02, 0x04, 0x05, 0x00, 0xDE, 0xAD]

/-- The window of V-D5, with the byte at offset 12 given. -/
def windowD5 (b12 : Byte) : List Byte :=
  [0xFF, 0xFF, 0x00, 0x50, 0x00, 0x00, 0x00, 0x00, 0x00, 0x00, 0x00, 0x00, b12, 0x02, 0x20, 0x00, 0x12, 0x34, 0x00,
    0x00, 0xAA]

/-- The record of V-E3 with its options, payload and parent. -/
def recordE3 : State :=
  { State.reset with
    hr :=
      { HeaderRecord.zero with
        sport := 1, dport := 2, seq := 0x01020304, ack := 0x05060708, hlw := 6, flags := 0x010, win := 0x0100 }
    lr := { optlen := 3, paylen := 2, payvalid := 1, wlen := 0 }
    opt := { cells := Memory.cellsFrom 0 [0x02, 0x04, 0x05], draw := 0 }
    pay := { cells := Memory.cellsFrom 0 [0xDE, 0xAD], draw := 0 }
    parent := { valid := 1, src := 0xC0A80001, dst := 0xC0A800FE, proto := 0 } }

/-! ### Well-formedness -/

theorem test_wellFormed_operand : (Instr.setSport 0xFFFF).wellFormed = true := by decide

theorem test_illFormed_operand : (Instr.setSport 0x10000).wellFormed = false := by decide

theorem test_illFormed_no_operand : (Instr.encode 1).wellFormed = false := by decide

theorem test_illFormed_address : (Instr.stb .opt 40 0).wellFormed = false := by decide

theorem test_illFormed_window : (Instr.decode 65520 20).wellFormed = false := by decide

theorem test_illFormed_options_length : (Instr.setOpts 41).wellFormed = false := by decide

/-! ### Decoding: words written out from 30_encoding.md R87 and R92 -/

/-- The opcode is bits 63:56, `imm` bits 31:0 (R95). -/
theorem test_decode_word_set_sport : decodeWord 0x10000000000004D2 = .command (.setSport 1234) := by decide

/-- `sp` is bits 55:48 and `a` bits 47:32 (R95). -/
theorem test_decode_word_stb : decodeWord 0x4002000C00000050 = .command (.stb .wire 12 0x50) := by decide

theorem test_decode_word_ldb : decodeWord 0x4101000300000000 = .command (.ldb .pay 3 0) := by decide

theorem test_decode_word_decode : decodeWord 0x5100006400000014 = .command (.decode 100 20) := by decide

theorem test_decode_word_cksum : decodeWord 0x5200000000000014 = .command (.cksum 0 20) := by decide

/-- Housekeeping and record writes, from the programs P1 and P2. -/
theorem test_decode_words_writes :
    [0x0100000000000000, 0x0200000000000000, 0x11000000000001BB, 0x1200000001020304, 0x1300000080000000].map
        decodeWord =
      [.command (.clear 0), .command (.rstCsum 0), .command (.setDport 443), .command (.setSeq 0x01020304),
        .command (.setAck 0x80000000)] := by decide

theorem test_decode_words_writes2 :
    [0x1400000000000005, 0x1500000000000012, 0x160000000000FFFF, 0x170000000000BEEF, 0x180000000000ABCD].map
        decodeWord =
      [.command (.setHlw 5), .command (.setFlags 0x12), .command (.setWin 0xFFFF), .command (.setCsum 0xBEEF),
        .command (.setUrg 0xABCD)] := by decide

theorem test_decode_words_lengths :
    [0x1900000000000020, 0x1A00000000000003, 0x1B00000000000000].map decodeWord =
      [.command (.setOpts 32), .command (.setPay 3), .command (.clrPay 0)] := by decide

theorem test_decode_words_reads :
    [0x2000000000000000, 0x2100000000000000, 0x2200000000000000, 0x2300000000000000, 0x2400000000000000,
          0x2500000000000000, 0x2600000000000000].map
        decodeWord =
      [.command (.getSport 0), .command (.getDport 0), .command (.getSeq 0), .command (.getAck 0),
        .command (.getHlw 0), .command (.getFlags 0), .command (.getWin 0)] := by decide

theorem test_decode_words_reads2 :
    [0x2700000000000000, 0x2800000000000000, 0x2900000000000000, 0x2A00000000000000, 0x2B00000000000000,
          0x2C00000000000000].map
        decodeWord =
      [.command (.getCsum 0), .command (.getUrg 0), .command (.getOptlen 0), .command (.getPaylen 0),
        .command (.getPayvalid 0), .command (.getWlen 0)] := by decide

theorem test_decode_words_parent :
    [0x300000000A000001, 0x310000000A000002, 0x3200000000000006, 0x3300000000000001].map decodeWord =
      [.command (.setPsrc 0x0A000001), .command (.setPdst 0x0A000002), .command (.setPproto 6),
        .command (.setPvalid 1)] := by decide

theorem test_decode_words_parent_reads :
    [0x3400000000000000, 0x3500000000000000, 0x3600000000000000, 0x3700000000000000].map decodeWord =
      [.command (.getPsrc 0), .command (.getPdst 0), .command (.getPproto 0), .command (.getPvalid 0)] := by decide

theorem test_decode_words_codec_and_extractor :
    [0x5000000000000000, 0x6000000000000000, 0x6100000000000000, 0x6200000000000000, 0x6300000000000000].map
        decodeWord =
      [.command (.encode 0), .command (.mpEnabled 0), .command (.mpSubtype 0), .command (.mpKey 0),
        .command (.mpToken 0)] := by decide

/-- The first unlisted opcode of each group (V-X1, V-X2). -/
theorem test_illegal_opcodes :
    [0x0000000000000000, 0x0300000000000000, 0x1C00000000000000, 0x2D00000000000000, 0x3800000000000000,
          0x4200000000000000, 0x5300000000000000, 0x6400000000000000, 0x7000000000000000, 0xFF00000000000000].map
        decodeWord =
      List.replicate 10 (.illegal .unknownOpcode) := by decide

/-- Unused fields and reserved selectors (V-X3, V-X4, V-D16, V-A5). -/
theorem test_illegal_fields :
    [0x0101000000000000, 0x1500000100005002, 0x5101000000000014, 0x4003000000000000, 0x4103000000000000].map
        decodeWord =
      [.illegal .unusedFieldNonzero, .illegal .unusedFieldNonzero, .illegal .unusedFieldNonzero,
        .illegal .reservedSpace, .illegal .reservedSpace] := by decide

theorem test_decodeTableWord : decodeTableWord 64 0x400000140000001E = some (.stb .opt 20 0x1E) := by decide

theorem test_withFetchWord_runs :
    (stepped (State.reset.withFetchWord 64 0x10000000000004D2)).hr.sport = 1234 := by decide

/-! ### Steps -/

/-- V-X1. -/
theorem test_step_illegal_word : answerWord 0 = some ⟨.illegalCommand, 0⟩ := by decide

/-- V-X5, V-X6: the operand is checked before the address. -/
theorem test_step_priority :
    [0x5100FFF000010000, 0x4000002800000100].map answerWord =
      [some ⟨.operandOutOfRange, 0⟩, some ⟨.operandOutOfRange, 0⟩] := by decide

/-- V-X4: the fields are checked before the operand. -/
theorem test_step_priority_illegal : answerWord 0x1500000100005002 = some ⟨.illegalCommand, 0⟩ := by decide

/-! ### Housekeeping and record writes -/

/-- V-F14: CLEAR empties the record and leaves the parent. -/
theorem test_clear :
    (after (.clear 0) { withLayout 6 4 9 with parent := { valid := 1, src := 1, dst := 2, proto := 3 } }).lr =
        { optlen := 0, paylen := 0, payvalid := 0, wlen := 0 } ∧
      (after (.clear 0) (withParent { valid := 1, src := 1, dst := 2, proto := 3 })).parent.src = 1 := by decide

/-- V-F8. -/
theorem test_rst_csum : (after (.rstCsum 0) (withRecord { HeaderRecord.zero with csum := 0xBEEF })).hr.csum = 0 := by
  decide

/-- V-F1, V-F2. -/
theorem test_set_sport :
    (after (.setSport 1234) State.reset).hr = { HeaderRecord.zero with sport := 1234 } ∧
      answer (.setSport 0x10000) State.reset = some ⟨.operandOutOfRange, 0⟩ := by decide

theorem test_set_dport :
    (after (.setDport 80) State.reset).hr = { HeaderRecord.zero with dport := 80 } := by decide

/-- V-F3. -/
theorem test_set_seq :
    (after (.setSeq 0xFFFFFFFF) State.reset).hr = { HeaderRecord.zero with seq := 0xFFFFFFFF } := by decide

theorem test_set_ack :
    (after (.setAck 0x80000000) State.reset).hr = { HeaderRecord.zero with ack := 0x80000000 } := by decide

/-- V-F4. -/
theorem test_set_hlw :
    (after (.setHlw 15) State.reset).hr = { HeaderRecord.zero with hlw := 15 } ∧
      answer (.setHlw 16) State.reset = some ⟨.operandOutOfRange, 0⟩ := by decide

/-- V-F6, V-F7. -/
theorem test_set_flags :
    (after (.setFlags 0x1FF) State.reset).hr = { HeaderRecord.zero with flags := 0x1FF } ∧
      answer (.setFlags 0x200) State.reset = some ⟨.operandOutOfRange, 0⟩ ∧
      answer (.setFlags 0x5002) State.reset = some ⟨.operandOutOfRange, 0⟩ := by decide

theorem test_set_win :
    (after (.setWin 0xFFFF) State.reset).hr = { HeaderRecord.zero with win := 0xFFFF } := by decide

/-- V-F8. -/
theorem test_set_csum :
    (after (.setCsum 0xBEEF) State.reset).hr = { HeaderRecord.zero with csum := 0xBEEF } := by decide

theorem test_set_urg :
    (after (.setUrg 0xABCD) State.reset).hr = { HeaderRecord.zero with urg := 0xABCD } := by decide

/-- V-F9: the derived header length. -/
theorem test_set_opts_length :
    [0, 1, 4, 5, 8, 9, 36, 37, 40].map (fun n => (after (.setOpts n) State.reset).hr.hlw) =
      [5, 6, 6, 7, 7, 8, 14, 15, 15] := by decide

/-- V-F10. -/
theorem test_set_opts_range :
    [41, 63, 64].map (fun n => answer (.setOpts n) State.reset) =
      [some ⟨.optionsTooLong, 0⟩, some ⟨.optionsTooLong, 0⟩, some ⟨.operandOutOfRange, 0⟩] := by decide

/-- V-F12, V-F13. -/
theorem test_set_pay :
    (after (.setPay 65535) State.reset).lr = { optlen := 0, paylen := 0xFFFF, payvalid := 1, wlen := 0 } := by decide

theorem test_clr_pay :
    (after (.clrPay 0) (withLayout 0 4 9)).lr = { optlen := 4, paylen := 0, payvalid := 0, wlen := 0 } := by decide

/-! ### Record reads -/

/-- A record whose registers all differ. -/
def distinctRecord : State :=
  { State.reset with
    hr :=
      { sport := 0xFFFF, dport := 2, seq := 0xFFFFFFFF, ack := 4, hlw := 15, flags := 0x1FF, win := 7, csum := 8, urg := 9 }
    lr := { optlen := 40, paylen := 0xFFFF, payvalid := 1, wlen := 13 } }

/-- Zero-extended, not sign-extended (V-F1, V-F3, V-F4, V-F6, L1-8). -/
theorem test_get_record :
    [answer (.getSport 0) distinctRecord, answer (.getDport 0) distinctRecord, answer (.getSeq 0) distinctRecord,
        answer (.getAck 0) distinctRecord, answer (.getHlw 0) distinctRecord, answer (.getFlags 0) distinctRecord,
        answer (.getWin 0) distinctRecord, answer (.getCsum 0) distinctRecord, answer (.getUrg 0) distinctRecord] =
      [some ⟨.ok, 0xFFFF⟩, some ⟨.ok, 2⟩, some ⟨.ok, 0xFFFFFFFF⟩, some ⟨.ok, 4⟩, some ⟨.ok, 15⟩, some ⟨.ok, 0x1FF⟩,
        some ⟨.ok, 7⟩, some ⟨.ok, 8⟩, some ⟨.ok, 9⟩] := by decide

theorem test_get_lengths :
    [answer (.getOptlen 0) distinctRecord, answer (.getPaylen 0) distinctRecord,
        answer (.getPayvalid 0) distinctRecord, answer (.getWlen 0) distinctRecord] =
      [some ⟨.ok, 40⟩, some ⟨.ok, 0xFFFF⟩, some ⟨.ok, 1⟩, some ⟨.ok, 13⟩] := by decide

/-- V-F18. -/
theorem test_get_with_operand : answer (.getSport 1) distinctRecord = some ⟨.operandOutOfRange, 0⟩ := by decide

/-! ### Parent context -/

/-- V-F15. -/
theorem test_set_parent_addresses :
    (after (.setPsrc 0x0A000001) State.reset).parent = { valid := 0, src := 0x0A000001, dst := 0, proto := 0 } ∧
      (after (.setPdst 0x0A000002) State.reset).parent = { valid := 0, src := 0, dst := 0x0A000002, proto := 0 } := by
  decide

/-- V-F16. -/
theorem test_set_pproto :
    (after (.setPproto 255) State.reset).parent = { valid := 0, src := 0, dst := 0, proto := 255 } ∧
      answer (.setPproto 256) State.reset = some ⟨.operandOutOfRange, 0⟩ := by decide

/-- V-F17. -/
theorem test_set_pvalid :
    (after (.setPvalid 1) State.reset).parent = { valid := 1, src := 0, dst := 0, proto := 0 } ∧
      answer (.setPvalid 2) State.reset = some ⟨.operandOutOfRange, 0⟩ := by decide

theorem test_get_parent :
    [answer (.getPsrc 0) (literalCase 1), answer (.getPdst 0) (literalCase 1), answer (.getPproto 0) (literalCase 1),
        answer (.getPvalid 0) (literalCase 1)] =
      [some ⟨.ok, 0x0A000001⟩, some ⟨.ok, 0x0A000002⟩, some ⟨.ok, 6⟩, some ⟨.ok, 1⟩] := by decide

/-! ### Host memory access -/

/-- V-A1, V-A2: the last byte of OPT and the first address past it. -/
theorem test_stb_opt :
    (after (.stb .opt 39 0xAB) State.reset).readByte .opt 39 = 0xAB ∧
      answer (.stb .opt 40 0) State.reset = some ⟨.addressOutOfRange, 0⟩ := by decide

/-- V-A3, V-A4. -/
theorem test_stb_wire :
    (after (.stb .wire 65535 0x7F) State.reset).readByte .wire 65535 = 0x7F ∧
      answer (.stb .pay 0 0x100) State.reset = some ⟨.operandOutOfRange, 0⟩ := by decide

/-- V-A7: three separate spaces. -/
theorem test_ldb_spaces :
    let s := after (.stb .wire 5 0x33) (after (.stb .pay 5 0x22) (after (.stb .opt 5 0x11) State.reset))
    [answer (.ldb .opt 5 0) s, answer (.ldb .pay 5 0) s, answer (.ldb .wire 5 0) s] =
      [some ⟨.ok, 0x11⟩, some ⟨.ok, 0x22⟩, some ⟨.ok, 0x33⟩] := by decide

/-- V-A2, V-A6. -/
theorem test_ldb_range :
    answer (.ldb .opt 40 0) State.reset = some ⟨.addressOutOfRange, 0⟩ ∧
      answer (.ldb .pay 3 1) State.reset = some ⟨.operandOutOfRange, 0⟩ := by decide

/-! ### ENCODE -/

/-- V-E3: options with one padding byte, a payload, a parent. -/
theorem test_encode_options_payload :
    answer (.encode 0) recordE3 = some ⟨.ok, 26⟩ ∧
      (after (.encode 0) recordE3).readBytes .wire 0 26 = windowD1 := by decide

/-- V-E11, V-E12, V-E13. -/
theorem test_encode_refusals :
    [answer (.encode 0) (withLayout 4 0 0), answer (.encode 0) (withLayout 6 5 0),
        answer (.encode 0) (withLayout 15 0 65476)] =
      [some ⟨.layoutInvariant, 0⟩, some ⟨.layoutInvariant, 0⟩, some ⟨.lengthOverflow, 0⟩] := by decide

/-! ### The checksum -/

/-- V-K1, V-K2, V-K3: counted from the window's first byte; a last odd byte is a high byte. -/
theorem test_cksum_words :
    let s := onWire 0 [0x00, 0x01, 0xF2, 0x03, 0xF4, 0xF5, 0xF6, 0xF7]
    [answer (.cksum 0 8) s, answer (.cksum 0 7) s, answer (.cksum 1 7) s] =
      [some ⟨.ok, 0x220D⟩, some ⟨.ok, 0x2304⟩, some ⟨.ok, 0x0D22⟩] := by decide

/-- V-K9: the pseudo-header alone; V-K13. -/
theorem test_cksum_windows :
    answer (.cksum 0 0) (withParent { valid := 1, src := 0x0A000001, dst := 0x0A000002, proto := 17 }) =
        some ⟨.ok, 0xEBEB⟩ ∧
      answer (.cksum 65535 2) State.reset = some ⟨.addressOutOfRange, 0⟩ := by decide

/-- V-K5: the fold must repeat; L1-9. -/
theorem test_fold_repeats :
    foldPass 0x1FFFF = 0x10000 ∧
      checksum { valid := 0, src := 0, dst := 0, proto := 0 } ([0xFF, 0xFF, 0xAF, 0xFF] ++ List.replicate 8 0 ++ [0x50, 0x01]) =
        0xFFFE := by decide

/-! ### DECODE -/

/-- V-D1, at the offset of V-D4. -/
theorem test_decode_record :
    (after (.decode 100 26) (onWire 100 windowD1)).hr =
      { sport := 1, dport := 2, seq := 0x01020304, ack := 0x05060708, hlw := 6, flags := 0x010, win := 0x0100,
        csum := 0x26B6, urg := 0 } := by decide

/-- V-D1: the options with their padding, the payload; V-D2: clamped options. -/
theorem test_decode_lengths :
    (after (.decode 0 26) (onWire 0 windowD1)).lr = { optlen := 4, paylen := 2, payvalid := 1, wlen := 0 } ∧
      (after (.decode 0 26) (onWire 0 windowD1)).readBytes .pay 0 2 = [0xDE, 0xAD] ∧
      (after (.decode 0 22) (onWire 0 windowD1)).lr = { optlen := 2, paylen := 0, payvalid := 1, wlen := 0 } := by decide

/-! ### The option extractor -/

/-- V-M1, V-M3, V-M4. -/
theorem test_mp_enabled :
    [answer (.mpEnabled 0) (optionsFrom20 24 [0x1E, 0, 0, 0]), answer (.mpEnabled 0) (optionsFrom20 20 []),
        answer (.mpEnabled 0) (optionsFrom20 21 [0x1E]), answer (.mpEnabled 0) (optionsFrom20 21 [0x1F])] =
      [some ⟨.ok, 1⟩, some ⟨.ok, 0⟩, some ⟨.ok, 1⟩, some ⟨.ok, 0⟩] := by decide

/-- V-M1, V-M2, V-M5, V-M6. -/
theorem test_mp_subtype :
    [answer (.mpSubtype 0) (optionsFrom20 24 [0x1E, 0, 0, 0]), answer (.mpSubtype 0) (optionsFrom20 24 [0x1E, 0, 0x10, 0]),
        answer (.mpSubtype 0) (optionsFrom20 22 [0x1E, 0x04]),
        answer (.mpSubtype 0) (optionsFrom20 23 [0x1E, 0x04, 0x20])] =
      [some ⟨.ok, 0⟩, some ⟨.ok, 1⟩, some ⟨.optionAccessOutOfRange, 0⟩, some ⟨.ok, 0xFFFFFFFFFFFFFFFF⟩] := by decide

/-- V-M9 and V-M8. -/
theorem test_mp_key :
    let bs := [0x1E, 0x0C, 0x00, 0x81, 0x01, 0x02, 0x03, 0x04, 0x05, 0x06, 0x07, 0x08]
    [answer (.mpKey 0) (optionsFrom20 32 bs), answer (.mpKey 0) (optionsFrom20 31 bs)] =
      [some ⟨.ok, 0x0102030405060708⟩, some ⟨.optionAccessOutOfRange, 0⟩] := by decide

/-- V-M7; one option byte fewer is out of range. -/
theorem test_mp_token :
    let bs := [0x1E, 0x0C, 0x10, 0x00, 0xDE, 0xAD, 0xBE, 0xEF]
    [answer (.mpToken 0) (optionsFrom20 28 bs), answer (.mpToken 0) (optionsFrom20 27 bs)] =
      [some ⟨.ok, 0xDEADBEEF⟩, some ⟨.optionAccessOutOfRange, 0⟩] := by decide

/-! ### Witnesses: states and operands that meet a statement's hypotheses -/

/-- A state that meets the invariant and is not reset: a program of two commands, a written byte, a payload. -/
def busy : State :=
  { withLayout 6 4 9 with
    wire := { cells := [(7, 0x11), (65535, 0x22)], draw := 0 }
    program := [0x10000000000004D2, 0x6200000000000000]
    pc := 1 }

theorem witness_StepKeepsTheInvariant : busy.Inv ∧ step busy = .next (stepped busy) :=
  ⟨⟨by decide, by decide, by decide, by intro sp; cases sp <;> decide⟩, by rfl⟩

theorem witness_ProgramsRunToTheirEnd : { busy with pc := 0 }.pc + 2 ≤ busy.program.length := by decide

theorem witness_StepRunsTheDecodedCommand :
    busy.program[busy.pc]? = some 0x6200000000000000 ∧ decodeWord 0x6200000000000000 = .command (.mpKey 0) := by decide

/-- The host's next command is the word given. -/
def atWord (c : DWord) : State := { State.reset with program := [c] }

/-- One word for each way to be illegal, at its boundary: an unlisted opcode; selector 3; a nonzero `sp`, of a command
that uses `a` and of one that does not; a nonzero `a`. -/
theorem witness_IllegalWordsAnswerIllegalCommand :
    (illegalFields 0x03 0 0 ∧ illegalFields 0x40 3 5 ∧ illegalFields 0x51 1 9 ∧ illegalFields 0x10 1 0 ∧
        illegalFields 0x10 0 1) ∧
      ∀ c, (atWord c).program[(atWord c).pc]? = some c :=
  ⟨⟨.inl (by decide), .inr (.inl (by decide)), .inr (.inr (.inl (by decide))), .inr (.inr (.inl (by decide))),
    .inr (.inr (.inr (by decide)))⟩, fun _ => rfl⟩

theorem witness_IdleAtTheEndOfTheProgram :
    { busy with pc := 2 }.pc = busy.program.length ∧ busy.program.length < { busy with pc := 3 }.pc := by decide

theorem witness_EncodeOfDecodeIsTheWord : decodeWord 0x510000640000001A = .command (.decode 100 26) := by decide

/-- Both sides of the row test: a word that matches, and one with a reserved selector that does not. -/
theorem witness_WordSpellsCommandIffItMatchesTheRow :
    (Instr.stb .opt 0 0).tableRow.spells 0x4002000C00000050 = true ∧
      (Instr.stb .opt 0 0).tableRow.spells 0x4003000C00000050 = false := by decide

/-- A state and a command for each status a command can end with. -/
theorem witness_StatusesAndWhoRaisesThem :
    [answer (.clear 0) busy, answer (.decode 0 20) (onWire 0 (windowD5 0x4E)), answer (.decode 0 0) busy,
        answer (.setOpts 41) busy, answer (.mpKey 0) busy, answer (.encode 0) (withLayout 4 0 0),
        answer (.encode 0) (withLayout 0 0 65516), answer (.setPvalid 2) busy, answer (.stb .opt 40 0) busy].map
        (Option.map Response.st) =
      [some .ok, some .headerTooShort, some .bufferUnderrun, some .optionsTooLong, some .optionAccessOutOfRange,
        some .layoutInvariant, some .lengthOverflow, some .operandOutOfRange, some .addressOutOfRange] := by decide

theorem witness_WideOperandIsOutOfRange :
    2 ^ (Instr.setFlags 0x200).operandWidth ≤ (Instr.setFlags 0x200).imm.toNat ∧
      2 ^ (Instr.clear 1).operandWidth ≤ (Instr.clear 1).imm.toNat := by decide

theorem witness_AddressOutsideItsSpace :
    40 ≤ (40 : Half).toNat ∧ 65536 < (65535 : Half).toNat + (2 : Half).toNat := by decide

theorem witness_FailedCommandsChangeNothing :
    exec (.setOpts 41) busy = .next (answered busy ⟨.optionsTooLong, 0⟩) ∧
      (answered busy ⟨.optionsTooLong, 0⟩).responses = busy.responses ++ [⟨.optionsTooLong, 0⟩] ∧
      Status.optionsTooLong ≠ .ok ∧ Status.optionsTooLong ≠ .bufferUnderrun ∧
      Status.optionsTooLong ≠ .headerTooShort := by
  exact ⟨rfl, rfl, by decide, by decide, by decide⟩

/-- In range at every boundary: the last address of OPT, the last window of WIRE, the longest options. -/
theorem witness_WellFormedCommandsAreInRange :
    (Instr.stb .opt 39 0xFF).wellFormed = true ∧ (Instr.cksum 65535 1).wellFormed = true ∧
      (Instr.setOpts 40).wellFormed = true ∧
      exec (.setOpts 40) busy = .next (after (.setOpts 40) busy) ∧
      (after (.setOpts 40) busy).responses = busy.responses ++ [⟨.ok, 0⟩] := by
  exact ⟨by decide, by decide, by decide, rfl, rfl⟩

theorem witness_OnlyListedCommandsWrite :
    exec (.stb .opt 39 0xFF) busy = .next (after (.stb .opt 39 0xFF) busy) ∧
      mayWrite busy .seq (.stb .opt 39 0xFF) = false ∧ mayStore .pay (.stb .opt 39 0xFF) = false := by
  exact ⟨rfl, rfl, rfl⟩

theorem witness_OnlyListedCommandsReadTheParent :
    usesParent (.setOpts 40) = false ∧ exec (.setOpts 40) busy = .next (after (.setOpts 40) busy) ∧
      (∀ imm, Instr.setOpts 40 ≠ .encode imm) ∧ ∀ imm, Instr.setOpts 40 ≠ .getWlen imm := by
  exact ⟨rfl, rfl, (by intro imm h; cases h), (by intro imm h; cases h)⟩

/-- The first `imm` out of range of each width that has one: 16, 9, 8, 4, 1 and no operand. -/
theorem witness_operand_out_of_range :
    2 ^ 16 ≤ (0x10000 : Word).toNat ∧ 2 ^ 9 ≤ (0x200 : Word).toNat ∧ 2 ^ 8 ≤ (0x100 : Word).toNat ∧
      2 ^ 4 ≤ (16 : Word).toNat ∧ 2 ^ 1 ≤ (2 : Word).toNat ∧ (1 : Word) ≠ 0 := by decide

theorem witness_SetOptionsDerivesTheHeaderLength :
    (40 : BitVec 6).toNat ≤ 40 ∧ 41 ≤ (41 : Word).toNat ∧ (63 : Word).toNat ≤ 63 ∧ 64 ≤ (64 : Word).toNat := by decide

theorem witness_StoreByteWritesThatByteOnly :
    (Space.opt = .opt → (39 : Half).toNat < 40) ∧ (Space.wire = .opt → (65535 : Half).toNat < 40) ∧
      2 ^ 8 ≤ (0x100 : Word).toNat ∧ 40 ≤ (40 : Half).toNat ∧ 2 < (3 : BitVec 8).toNat ∧
      { State.reset with program := [commandWord 0x40 3 0 0] }.program[0]? = some (commandWord 0x40 3 0 0) := by decide

theorem witness_LoadByteReadsThatByte :
    (Space.opt = .opt → (39 : Half).toNat < 40) ∧ (1 : Word) ≠ 0 ∧ 40 ≤ (40 : Half).toNat ∧ 2 < (3 : BitVec 8).toNat ∧
      { State.reset with program := [commandWord 0x41 3 0 0] }.program[0]? = some (commandWord 0x41 3 0 0) := by decide

theorem witness_LoadAfterStoreGivesTheByte :
    (Space.wire = .opt → (65535 : Half).toNat < 40) ∧
      exec (.stb .wire 65535 ((0x7F : Byte).setWidth 32)) busy = .next (after (.stb .wire 65535 0x7F) busy) ∧
      (7 : Half) ≠ 65535 ∧ exec (.ldb .wire 7 0) busy = .next (answered busy ⟨.ok, 0x11⟩) := by
  exact ⟨by decide, rfl, by decide, rfl⟩

/-- Encodable at the boundaries: nothing set; options in a full region; options not emitted; 65535 bytes. -/
theorem witness_encodable :
    encodable State.reset ∧ encodable (withLayout 6 4 0) ∧ encodable (withLayout 5 3 0) ∧
      encodable (withLayout 15 40 65475) ∧ encodable (withLayout 0 0 65515) := by
  simp only [encodable, badLayout]; decide

/-- Bad and too long at the boundaries. -/
theorem witness_EncodeRefusesBadLayouts :
    badLayout (withLayout 4 0 0) ∧ badLayout (withLayout 6 5 0) ∧
      (¬ badLayout (withLayout 15 0 65476) ∧ 65535 < totalLength (withLayout 15 0 65476)) := by
  simp only [badLayout]; decide

theorem witness_EncodeTwiceGivesTheSameBytes :
    encodable (literalCase 1) ∧ exec (.encode 0) (literalCase 1) = .next (after (.encode 0) (literalCase 1)) := by
  exact ⟨by simp only [encodable, badLayout]; decide, rfl⟩

/-- With a parent; not encodable; an operand; no parent. -/
theorem witness_EncodeInformsTheParent :
    (encodable (literalCase 1) ∧ (literalCase 1).parent.valid.toNat = 1 ∧ (literalCase 1).hr.csum = 0 ∧
        exec (.encode 0) (literalCase 1) = .next (after (.encode 0) (literalCase 1))) ∧
      (badLayout (withLayout 4 0 0) ∧
        exec (.encode 0) (withLayout 4 0 0) = .next (after (.encode 0) (withLayout 4 0 0))) ∧
      exec (.encode 1) (literalCase 1) = .next (after (.encode 1) (literalCase 1)) ∧
      (literalCase 0).parent.valid.toNat = 0 := by
  exact ⟨⟨by simp only [encodable, badLayout]; decide, by decide, rfl, rfl⟩,
    ⟨by simp only [badLayout]; decide, rfl⟩, rfl, by decide⟩

theorem witness_EncodeNeverChangesTheRest : exec (.encode 0) recordE3 = .next (after (.encode 0) recordE3) := by rfl

/-- `recordE3` with other bytes in WIRE, stale bytes in OPT and PAY, and another `LR.WLEN`. -/
def recordE3Stale : State :=
  { recordE3 with
    wire := { cells := [(0, 0xFF), (40, 0xFF)], draw := 3 }
    opt := { cells := Memory.cellsFrom 0 [0x02, 0x04, 0x05, 0xFF], draw := 3 }
    pay := { cells := Memory.cellsFrom 0 [0xDE, 0xAD, 0xFF], draw := 3 }
    lr := { recordE3.lr with wlen := 99 } }

theorem witness_EncodeDependsOnWhatItReadsOnly :
    encodable recordE3 ∧ recordE3Stale.hr = recordE3.hr ∧ recordE3Stale.lr.optlen = recordE3.lr.optlen ∧
      recordE3Stale.lr.payvalid = recordE3.lr.payvalid ∧ recordE3Stale.lr.paylen = recordE3.lr.paylen ∧
      recordE3Stale.parent = recordE3.parent ∧ recordE3Stale.params = recordE3.params ∧
      (∀ a, a < recordE3.lr.optlen.toNat → recordE3Stale.readByte .opt a = recordE3.readByte .opt a) ∧
      ∀ a, a < payloadLength recordE3 → recordE3Stale.readByte .pay a = recordE3.readByte .pay a := by
  refine ⟨by simp only [encodable, badLayout]; decide, ?_⟩
  decide

theorem witness_ChecksumIsTheComplement : foldCarries 0 = 0 := by decide

theorem witness_TwoPassesFoldAnySum : 0x1FFFF < 2 ^ 32 ∧ 0xFFFFFFFF < 2 ^ 32 := by decide

theorem witness_AccumulatorNeverWraps : (List.replicate 65535 (0xFF : Byte)).length ≤ 65535 := List.length_replicate.le

theorem witness_StoredChecksumVerifies : 18 ≤ (List.replicate 18 (0xFF : Byte)).length := by decide

theorem witness_CksumAnswersTheChecksum :
    (65535 : Half).toNat + (1 : Half).toNat ≤ 65536 ∧ 2 ^ 16 ≤ (0x10000 : Word).toNat ∧
      65536 < (65535 : Half).toNat + (2 : Half).toNat ∧ State.reset.parent.valid = 0 ∧ (1 : BitVec 8) ≠ 0 ∧
      (atWord (commandWord 0x52 1 0 20)).program[0]? = some (commandWord 0x52 1 0 20) := by decide

theorem witness_EncodedHeaderVerifies :
    encodable (literalCase 0) ∧ (literalCase 0).hr.csum = 0 ∧
      exec (.encode 0) (literalCase 0) = .next (after (.encode 0) (literalCase 0)) := by
  exact ⟨by simp only [encodable, badLayout]; decide, rfl, rfl⟩

/-- The shortest window with the lowest nibble, at the last offset. -/
theorem witness_DecodePopulatesTheRecord :
    (65516 : Half).toNat + (20 : Half).toNat ≤ 65536 ∧ 20 ≤ (20 : Half).toNat ∧
      5 ≤ nibbleAt (onWire 65516 (windowD5 0x5E)) 65516 := by decide

/-- 13 bytes; 14 with nibble 4; 14 and 19 with nibble 5; 20 with nibble 5. -/
theorem witness_DecodeRejectsShortHeaders :
    (0 : Half).toNat + (19 : Half).toNat ≤ 65536 ∧ (13 : Half).toNat < 14 ∧
      (14 ≤ (14 : Half).toNat ∧ nibbleAt (onWire 0 (windowD5 0x4E)) 0 < 5) ∧
      (14 ≤ (14 : Half).toNat ∧ (14 : Half).toNat < 20 ∧ (19 : Half).toNat < 20 ∧ 20 ≤ (20 : Half).toNat ∧
        5 ≤ nibbleAt (onWire 0 (windowD5 0x5E)) 0) := by decide

theorem witness_DecodeNeverChangesWireOrParent :
    exec (.decode 0 0) busy = .next (after (.decode 0 0) busy) ∧
      exec (.decode 0 21) (onWire 0 (windowD5 0x5E)) = .next (after (.decode 0 21) (onWire 0 (windowD5 0x5E))) := by
  exact ⟨rfl, rfl⟩

/-- The literal case with a supplied checksum. -/
def supplied : State := { literalCase 1 with hr := { (literalCase 1).hr with csum := 0xBEEF } }

theorem witness_DecodeOfEncodeGivesTheRecord :
    encodable supplied ∧ supplied.hr.csum ≠ 0 ∧ exec (.encode 0) supplied = .next (after (.encode 0) supplied) := by
  exact ⟨by simp only [encodable, badLayout]; decide, by decide, rfl⟩

/-- 21 bytes with and without the kind; 20; 22; 23 with each kind of subtype byte. -/
theorem witness_MultipathPresenceAndSubtype :
    (20 < (optionsFrom20 21 [0x1E]).lr.optlen.toNat ∧ (optionsFrom20 21 [0x1E]).readByte .opt 20 = 0x1E) ∧
      (optionsFrom20 20 []).lr.optlen.toNat ≤ 20 ∧ (optionsFrom20 21 [0x1F]).readByte .opt 20 ≠ 0x1E ∧
      (optionsFrom20 22 [0x1E, 0]).lr.optlen.toNat ≤ 22 ∧
      (22 < (optionsFrom20 23 [0x1E, 0, 0]).lr.optlen.toNat ∧ (optionsFrom20 23 [0x1E, 0, 0]).readByte .opt 22 = 0) ∧
      (optionsFrom20 23 [0x1E, 0, 0x10]).readByte .opt 22 = 0x10 ∧
      (optionsFrom20 23 [0x1E, 0, 0x20]).readByte .opt 22 ≠ 0 ∧
      (optionsFrom20 23 [0x1E, 0, 0x20]).readByte .opt 22 ≠ 0x10 := by decide

theorem witness_MultipathKeyAndToken :
    32 ≤ (optionsFrom20 32 []).lr.optlen.toNat ∧ (optionsFrom20 31 []).lr.optlen.toNat < 32 ∧
      28 ≤ (optionsFrom20 28 []).lr.optlen.toNat ∧ (optionsFrom20 27 []).lr.optlen.toNat < 28 := by decide

/-- Option memories that agree below `LR.OPTLEN = 21` and differ at index 22. -/
theorem witness_ExtractorIgnoresStaleBytes :
    let s := optionsFrom20 21 [0x1E, 0, 0]
    let m := (optionsFrom20 21 [0x1E, 0, 0x10]).opt
    (∀ a, a < s.lr.optlen.toNat → ({ s with opt := m } : State).readByte .opt a = s.readByte .opt a) ∧
      ({ s with opt := m } : State).readByte .opt 22 ≠ s.readByte .opt 22 := by decide

end Sys2Proof.Tests
end

/-! PROOFS for 10_state.md: reset and the step; placing a command; what a command can do, said once (`exec_answers`),
and from it the invariant, the run to the end and the column "written by" of the register map; last the comparison of
two runs, for the column "read by" and for stale option bytes. -/

namespace Sys2Proof.Machine

open Sys2Proof.Claims

/-! ### Reset -/

/-- Every byte of an unwritten memory is the free value of its draw. -/
@[simp] theorem Memory.read_unwritten (sp : Space) (n a : Nat) :
    Memory.read sp (Memory.unwritten n) a = Config.freeByte sp n a := rfl

/-- After reset no memory has been written to. -/
@[simp] theorem State.reset_mem (sp : Space) : State.reset.mem sp = Memory.unwritten 0 := by
  cases sp <;> rfl

/-! ### One step, by what is fetched -/

theorem step_of_command {s : State} {c : DWord} {i : Instr} (hc : s.program[s.pc]? = some c)
    (hd : decodeWord c = .command i) : step s = exec i s := by
  simp [step, State.fetch, hc, hd]

theorem step_of_illegal {s : State} {c : DWord} {why : Illegal} (hc : s.program[s.pc]? = some c)
    (hd : decodeWord c = .illegal why) : step s = .next (s.deliver ⟨.illegalCommand, 0⟩) := by
  simp [step, State.fetch, hc, hd, raise]

theorem step_of_end {s : State} (h : s.pc = s.program.length) : step s = .next s := by
  simp [step, State.fetch, h]

theorem step_of_past {s : State} (h : s.program.length < s.pc) : step s = .fault .pcPastProgram := by
  have hn : s.program[s.pc]? = none := List.getElem?_eq_none (Nat.le_of_lt h)
  simp [step, State.fetch, hn, Nat.ne_of_gt h]

/-- Everything a step can do where the host has given a next command. -/
theorem step_of_lt {s : State} (h : s.pc < s.program.length) :
    (∃ i, step s = exec i s) ∨ step s = .next (s.deliver ⟨.illegalCommand, 0⟩) := by
  have hc : s.program[s.pc]? = some s.program[s.pc] := List.getElem?_eq_getElem h
  cases hd : decodeWord s.program[s.pc] with
  | command i => exact .inl ⟨i, step_of_command hc hd⟩
  | illegal why => exact .inr (step_of_illegal hc hd)

/-! ### The word of a command, decoded and placed -/

@[simp] theorem decodePlain_commandWord (op : BitVec 8) (imm : Word) (mk : Word → Instr) :
    decodePlain (commandWord op 0 0 imm) mk = .command (mk imm) := by
  simp [decodePlain]

@[simp] theorem decodeWindow_commandWord (op : BitVec 8) (a : Half) (imm : Word) (mk : Half → Word → Instr) :
    decodeWindow (commandWord op 0 a imm) mk = .command (mk a imm) := by
  simp [decodeWindow]

@[simp] theorem decodeSpace_commandWord (op : BitVec 8) (sp : Space) (a : Half) (imm : Word)
    (mk : Space → Half → Word → Instr) :
    decodeSpace (commandWord op sp.selector a imm) mk = .command (mk sp a imm) := by
  simp [decodeSpace]

/-- A command decodes from its own word. -/
theorem decodeWord_encodeWord (i : Instr) : decodeWord (encodeWord i) = .command i := by
  unfold decodeWord
  cases i with
  | stb | ldb => rw [encodeWord, opField_commandWord]; exact decodeSpace_commandWord ..
  | decode | cksum => rw [encodeWord, opField_commandWord]; exact decodeWindow_commandWord ..
  | _ => rw [encodeWord, opField_commandWord]; exact decodePlain_commandWord ..

/-- The word placed is the one at index `pc`. -/
theorem State.withFetchWord_fetch (s : State) (nbits w : Nat) :
    (s.withFetchWord nbits w).program[(s.withFetchWord nbits w).pc]? = some (BitVec.ofNat 64 (w % 2 ^ nbits)) := by
  have hlen : (s.program.take s.pc ++ List.replicate (s.pc - s.program.length) 0).length = s.pc := by
    simp only [List.length_append, List.length_take, List.length_replicate]
    omega
  simp only [State.withFetchWord]
  rw [List.getElem?_append_right (by omega), hlen, Nat.sub_self, List.getElem?_cons_zero]

/-! ### What a command can do -/

/-- The state a command that completes leaves, but for the response. -/
def effect (i : Instr) (s : State) : State :=
  match i with
  | .clear _ => s.clearRecord
  | .rstCsum _ => s.setHr { s.hr with csum := 0 }
  | .setSport imm => s.setHr { s.hr with sport := imm.setWidth 16 }
  | .setDport imm => s.setHr { s.hr with dport := imm.setWidth 16 }
  | .setSeq imm => s.setHr { s.hr with seq := imm.setWidth 32 }
  | .setAck imm => s.setHr { s.hr with ack := imm.setWidth 32 }
  | .setHlw imm => s.setHr { s.hr with hlw := imm.setWidth 4 }
  | .setFlags imm => s.setHr { s.hr with flags := imm.setWidth 9 }
  | .setWin imm => s.setHr { s.hr with win := imm.setWidth 16 }
  | .setCsum imm => s.setHr { s.hr with csum := imm.setWidth 16 }
  | .setUrg imm => s.setHr { s.hr with urg := imm.setWidth 16 }
  | .setOpts imm =>
    (s.setLr { s.lr with optlen := imm.setWidth 6 }).setHr
      { s.hr with hlw := derivedLength (imm.setWidth 6).toNat }
  | .setPay imm => s.setLr { s.lr with payvalid := 1, paylen := imm.setWidth 16 }
  | .clrPay _ => s.setLr { s.lr with payvalid := 0, paylen := 0 }
  | .setPsrc imm => s.setParent { s.parent with src := imm.setWidth 32 }
  | .setPdst imm => s.setParent { s.parent with dst := imm.setWidth 32 }
  | .setPproto imm => s.setParent { s.parent with proto := imm.setWidth 8 }
  | .setPvalid imm => s.setParent { s.parent with valid := imm.setWidth 1 }
  | .stb sp a imm => s.store sp a.toNat [imm.setWidth 8]
  | .encode _ => s.encoded (effectiveLength s.hr.hlw)
  | .decode a imm => s.clearRecord.populate a.toNat (imm.setWidth 16 : Half).toNat
  | _ => s

/-- The checks on the state, beside the ranges of `Instr.wellFormed`, that a command passes to complete. -/
def stateAllows (i : Instr) (s : State) : Prop :=
  match i with
  | .encode _ =>
    layoutBroken (effectiveLength s.hr.hlw) s.lr.optlen = false ∧
      s.totalLength (effectiveLength s.hr.hlw) ≤ Config.totalMax
  | .decode a imm =>
    Config.hlwMin ≤ (s.windowHeader a.toNat).hlw.toNat ∧ Config.baseLen ≤ (imm.setWidth 16 : Half).toNat
  | .mpSubtype _ => 22 < s.lr.optlen.toNat
  | .mpKey _ => 31 < s.lr.optlen.toNat
  | .mpToken _ => 27 < s.lr.optlen.toNat
  | _ => True

/-- Everything a command can answer: it is refused and changes nothing, it completes, or it is a DECODE that fails
after it has begun on the record (44_decode.md R222). -/
inductive Answers (i : Instr) (s : State) : Host.Outcome State Fault Refusal → Prop where
  | refused (st : Status) (hst : st ≠ .ok) : Answers i s (.next (s.deliver ⟨st, 0⟩))
  | completed (v : DWord) (hi : i.wellFormed = true) (hs : stateAllows i s) :
      Answers i s (.next ((effect i s).deliver ⟨.ok, v⟩))
  | failed (a : Half) (imm : Word) (st : Status) (hi : i = .decode a imm)
      (hst : st = .bufferUnderrun ∨ st = .headerTooShort) :
      Answers i s (.next (s.unspecifyRecord.deliver ⟨st, 0⟩))

/-- Every range check of a command: of its operand, of its address or window, of the options length. -/
theorem wellFormed_iff (i : Instr) :
    i.wellFormed = true ↔
      i.imm.toNat < 2 ^ i.operandWidth ∧ i.addressFits = true ∧ i.optionsLengthFits = true := by
  simp [Instr.wellFormed, Instr.operandFits, and_assoc]

section WhatAnswers

variable {i : Instr} {s : State}

theorem Answers.withOperand {n : Nat} {imm : Word} {run : BitVec n → Host.Outcome State Fault Refusal}
    (h : imm.toNat < 2 ^ n → Answers i s (run (imm.setWidth n))) : Answers i s (withOperand n imm s run) := by
  unfold Machine.withOperand
  split
  · exact h ‹_›
  · exact .refused _ (by decide)

theorem Answers.withAddress {sp : Space} {a : Half} {run : Nat → Host.Outcome State Fault Refusal}
    (h : a.toNat < sp.size → Answers i s (run a.toNat)) : Answers i s (withAddress sp a s run) := by
  unfold Machine.withAddress
  split
  · exact h ‹_›
  · exact .refused _ (by decide)

theorem Answers.withWindow {a len : Half} {run : Nat → Nat → Host.Outcome State Fault Refusal}
    (h : a.toNat + len.toNat ≤ Config.wireSize → Answers i s (run a.toNat len.toNat)) :
    Answers i s (withWindow a len s run) := by
  unfold Machine.withWindow
  split
  · exact h ‹_›
  · exact .refused _ (by decide)

theorem Answers.withOptionIndex {last : Nat} {v : DWord}
    (h : last < s.lr.optlen.toNat → Answers i s (respond v s)) : Answers i s (withOptionIndex last s v) := by
  unfold Machine.withOptionIndex
  split
  · exact h ‹_›
  · exact .refused _ (by decide)

/-- A setter whose operand fits completes with what it writes. -/
theorem Answers.setRegister {n : Nat} {imm : Word} {write : BitVec n → State}
    (he : effect i s = write (imm.setWidth n)) (hi : imm.toNat < 2 ^ n → i.wellFormed = true) (hs : stateAllows i s) :
    Answers i s (setRegister n imm s write) :=
  .withOperand fun h => he ▸ .completed 0 (hi h) hs

/-- A getter without an operand completes and changes nothing. -/
theorem Answers.getRegister {n : Nat} {imm : Word} {v : BitVec n} (he : effect i s = s)
    (hi : imm.toNat < 2 ^ 0 → i.wellFormed = true) (hs : stateAllows i s) :
    Answers i s (getRegister imm s v) := by
  refine .withOperand fun h => ?_
  have hc := Answers.completed (v.setWidth 64) (hi h) hs
  rwa [he] at hc

end WhatAnswers

theorem execSetOpts_answers (imm : Word) (s : State) : Answers (.setOpts imm) s (execSetOpts imm s) := by
  refine .withOperand fun h => ?_
  have hval : (imm.setWidth 6).toNat = imm.toNat := by simpa using Nat.mod_eq_of_lt h
  split
  · exact .refused _ (by decide)
  · next hn => exact .completed 0 ((wellFormed_iff _).mpr ⟨h, rfl, decide_eq_true (by omega)⟩) trivial

theorem execStb_answers (sp : Space) (a : Half) (imm : Word) (s : State) :
    Answers (.stb sp a imm) s (execStb sp a imm s) :=
  .withOperand fun h => .withAddress fun ha =>
    .completed 0 ((wellFormed_iff _).mpr ⟨h, decide_eq_true ha, rfl⟩) trivial

theorem execLdb_answers (sp : Space) (a : Half) (imm : Word) (s : State) :
    Answers (.ldb sp a imm) s (execLdb sp a imm s) :=
  .withOperand fun h => .withAddress fun ha =>
    .completed _ ((wellFormed_iff _).mpr ⟨h, decide_eq_true ha, rfl⟩) trivial

theorem execEncode_answers (imm : Word) (s : State) : Answers (.encode imm) s (execEncode imm s) := by
  refine .withOperand fun h => ?_
  dsimp only
  split
  · exact .refused _ (by decide)
  · next hb =>
    split
    · exact .refused _ (by decide)
    · next ht =>
      exact .completed _ ((wellFormed_iff _).mpr ⟨h, rfl, rfl⟩) ⟨Bool.eq_false_iff.mpr hb, Nat.not_lt.mp ht⟩

theorem execDecode_answers (a : Half) (imm : Word) (s : State) :
    Answers (.decode a imm) s (execDecode a imm s) := by
  refine .withOperand fun h => .withWindow fun hw => ?_
  split
  · exact .failed a imm _ rfl (.inl rfl)
  · split
    · exact .failed a imm _ rfl (.inr rfl)
    · next hn =>
      split
      · exact .failed a imm _ rfl (.inl rfl)
      · next hl =>
        exact .completed 0 ((wellFormed_iff _).mpr ⟨h, decide_eq_true hw, rfl⟩)
          ⟨Nat.not_lt.mp hn, Nat.not_lt.mp hl⟩

theorem execCksum_answers (a : Half) (imm : Word) (s : State) : Answers (.cksum a imm) s (execCksum a imm s) :=
  .withOperand fun h => .withWindow fun hw =>
    .completed _ ((wellFormed_iff _).mpr ⟨h, decide_eq_true hw, rfl⟩) trivial

theorem execMpEnabled_answers (imm : Word) (s : State) : Answers (.mpEnabled imm) s (execMpEnabled imm s) := by
  refine .withOperand fun h => ?_
  have hi : (Instr.mpEnabled imm).wellFormed = true := (wellFormed_iff _).mpr ⟨h, rfl, rfl⟩
  split <;> exact .completed _ hi trivial

/-- Everything a command can do. -/
theorem exec_answers (i : Instr) (s : State) : Answers i s (exec i s) := by
  cases i with
  | setSport | setDport | setSeq | setAck | setHlw | setFlags | setWin | setCsum | setUrg | setPay | setPsrc | setPdst
  | setPproto | setPvalid =>
    rw [exec]
    refine .setRegister ?_ (fun h => ?_) ?_
    · rfl
    · exact (wellFormed_iff _).mpr ⟨h, rfl, rfl⟩
    · trivial
  | getSport | getDport | getSeq | getAck | getHlw | getFlags | getWin | getCsum | getUrg | getOptlen | getPaylen
  | getPayvalid | getWlen | getPsrc | getPdst | getPproto | getPvalid =>
    exact .getRegister rfl (fun h => (wellFormed_iff _).mpr ⟨h, rfl, rfl⟩) trivial
  | clear | rstCsum | clrPay =>
    rw [exec]
    refine .withOperand fun h => ?_
    exact .completed 0 ((wellFormed_iff _).mpr ⟨h, rfl, rfl⟩) trivial
  | setOpts imm => exact execSetOpts_answers imm s
  | stb sp a imm => exact execStb_answers sp a imm s
  | ldb sp a imm => exact execLdb_answers sp a imm s
  | encode imm => exact execEncode_answers imm s
  | decode a imm => exact execDecode_answers a imm s
  | cksum a imm => exact execCksum_answers a imm s
  | mpEnabled imm => exact execMpEnabled_answers imm s
  | mpSubtype | mpKey | mpToken =>
    rw [exec]
    refine .withOperand fun h => .withOptionIndex fun hl => ?_
    exact .completed _ ((wellFormed_iff _).mpr ⟨h, rfl, rfl⟩) hl

/-! ### The invariant -/

/-- A state with the same `pc`, program, length registers and memories meets the invariant too. -/
theorem State.Inv.congr {s t : State} (hs : s.Inv) (hpc : t.pc = s.pc) (hprog : t.program = s.program)
    (hlr : t.lr = s.lr) (hmem : ∀ sp, t.mem sp = s.mem sp) : t.Inv where
  pc_le := hpc ▸ hprog ▸ hs.pc_le
  optlen_le := hlr ▸ hs.optlen_le
  paylen_zero := hlr ▸ hs.paylen_zero
  mem_wf sp := hmem sp ▸ hs.mem_wf sp

theorem State.Inv.setHr {s : State} (hs : s.Inv) (h : HeaderRecord) : (s.setHr h).Inv :=
  hs.congr rfl rfl rfl (s.setHr_mem h)

theorem State.Inv.setParent {s : State} (hs : s.Inv) (p : ParentContext) : (s.setParent p).Inv :=
  hs.congr rfl rfl rfl (s.setParent_mem p)

/-- Legal length registers keep the invariant. -/
theorem State.Inv.setLr {s : State} (hs : s.Inv) {l : LengthRegs} (ho : l.optlen.toNat ≤ Config.optMax)
    (hp : l.payvalid = 0 → l.paylen = 0) : (s.setLr l).Inv where
  pc_le := hs.pc_le
  optlen_le := ho
  paylen_zero := hp
  mem_wf sp := s.setLr_mem l sp ▸ hs.mem_wf sp

/-- A store inside its space keeps the invariant. -/
theorem State.Inv.store {s : State} (hs : s.Inv) {sp : Space} {a : Nat} {bs : List Byte}
    (h : a + bs.length ≤ sp.size) : (s.store sp a bs).Inv where
  pc_le := by rw [State.store_pc, State.store_program]; exact hs.pc_le
  optlen_le := by rw [State.store_lr]; exact hs.optlen_le
  paylen_zero := by rw [State.store_lr]; exact hs.paylen_zero
  mem_wf sp' := by
    rw [State.store_mem]
    split
    · next e => subst e; exact Memory.wf_store _ _ _ _ (hs.mem_wf _) h
    · exact hs.mem_wf sp'

theorem State.Inv.clearRecord {s : State} (hs : s.Inv) : s.clearRecord.Inv :=
  (hs.setHr _).setLr (Nat.zero_le _) fun _ => rfl

/-- Whatever the free values are, the record of a failed DECODE is legal (93_implementation_defined.md U9). -/
theorem State.Inv.unspecifyRecord {s : State} (hs : s.Inv) : s.unspecifyRecord.Inv where
  pc_le := hs.pc_le
  optlen_le := by
    have hlt := Nat.mod_lt (Config.freeReg .optlen (s.draws + 1)) (Nat.succ_pos Config.optMax)
    simp only [State.unspecifyRecord_lr, freeLengths, BitVec.toNat_ofNat, Config.optMax] at hlt ⊢
    omega
  paylen_zero := by
    intro h
    simp only [State.unspecifyRecord_lr, freeLengths] at h ⊢
    rw [h, if_neg (by decide)]
  mem_wf
    | .opt => Memory.wf_unwritten _ _
    | .pay => Memory.wf_unwritten _ _
    | .wire => hs.mem_wf .wire

theorem State.Inv.encoded {s : State} (hs : s.Inv) {h : BitVec 4} (hb : layoutBroken h s.lr.optlen = false)
    (ht : s.totalLength h ≤ Config.totalMax) : (s.encoded h).Inv := by
  have hproto : s.writeBackProtocol.Inv := hs.congr (by simp) (by simp) (by simp) (by simp)
  have hfits : 0 + (s.encodedBytes h).length ≤ Space.wire.size := by
    rw [State.length_encodedBytes, State.length_assembled s h hb, Nat.zero_add]
    exact Nat.le_succ_of_le ht
  have hstore := hproto.store hfits
  have hlen := hstore.setLr (l := { s.lr with wlen := BitVec.ofNat 16 (s.totalLength h) }) hs.optlen_le hs.paylen_zero
  refine hlen.congr ?_ ?_ ?_ fun sp => ?_
  all_goals simp [State.encoded]

theorem State.Inv.populate {s : State} (hs : s.Inv) (off : Nat) (len : Half) :
    (s.populate off len.toNat).Inv := by
  obtain ⟨hopt, -⟩ := optionsTaken_le (s.windowHeader off).hlw len.toNat
  have hlen := len.isLt
  refine (((hs.setHr _).store ?_).store ?_).setLr ?_ ?_
  · rw [State.length_readBytes, Nat.zero_add]
    exact hopt
  · simp only [State.length_readBytes, Space.size, Config.paySize]
    omega
  · simp only [BitVec.toNat_ofNat, Config.optMax]
    omega
  · intro h
    cases h

/-- A completed command keeps the invariant. -/
theorem State.Inv.effect {s : State} (hs : s.Inv) {i : Instr} (hi : i.wellFormed = true) (ha : stateAllows i s) :
    (effect i s).Inv := by
  obtain ⟨-, haddr, hopts⟩ := (wellFormed_iff i).mp hi
  cases i with
  | clear => exact hs.clearRecord
  | rstCsum | setSport | setDport | setSeq | setAck | setHlw | setFlags | setWin | setCsum | setUrg =>
    exact hs.setHr _
  | setOpts imm =>
    have hle : imm.toNat ≤ 40 := of_decide_eq_true hopts
    refine (hs.setLr ?_ ?_).setHr _
    · rw [BitVec.toNat_setWidth, Nat.mod_eq_of_lt (by omega)]
      exact hle
    · exact hs.paylen_zero
  | setPay => exact hs.setLr hs.optlen_le nofun
  | clrPay => exact hs.setLr hs.optlen_le fun _ => rfl
  | setPsrc | setPdst | setPproto | setPvalid => exact hs.setParent _
  | stb sp a imm => exact hs.store (of_decide_eq_true haddr)
  | encode imm =>
    obtain ⟨hb, ht⟩ := ha
    exact hs.encoded hb ht
  | decode a imm => exact hs.clearRecord.populate _ _
  | _ => exact hs

/-- The response is delivered where a command was fetched, so `pc` stays within the program. -/
theorem State.Inv.deliver {s : State} (hs : s.Inv) (hlt : s.pc < s.program.length) (r : Response) :
    (s.deliver r).Inv where
  pc_le := hlt
  optlen_le := hs.optlen_le
  paylen_zero := hs.paylen_zero
  mem_wf sp := s.deliver_mem r sp ▸ hs.mem_wf sp

/-! ### The course of a run -/

/-- From `s` to `t` the machine ran `k` commands: `pc` counts them, each delivered one response, and the program and
the parameters are the same (10_state.md R45; 60_exceptions.md R241). -/
structure RanCommands (k : Nat) (s t : State) : Prop where
  pc : t.pc = s.pc + k
  program : t.program = s.program
  params : t.params = s.params
  responses : ∃ rs : List Response, rs.length = k ∧ t.responses = s.responses ++ rs

theorem RanCommands.trans {j k : Nat} {s t u : State} (h : RanCommands j s t) (h' : RanCommands k t u) :
    RanCommands (j + k) s u := by
  obtain ⟨rs, hlen, hrs⟩ := h.responses
  obtain ⟨rs', hlen', hrs'⟩ := h'.responses
  refine ⟨?_, h'.program.trans h.program, h'.params.trans h.params, rs ++ rs', ?_, ?_⟩
  · rw [h'.pc, h.pc, Nat.add_assoc]
  · rw [List.length_append, hlen, hlen']
  · rw [hrs', hrs, List.append_assoc]

theorem RanCommands.of_eq {s t : State} (hpc : t.pc = s.pc) (hprog : t.program = s.program)
    (hparams : t.params = s.params) (hresp : t.responses = s.responses) : RanCommands 0 s t :=
  ⟨hpc, hprog, hparams, [], rfl, hresp.trans (List.append_nil _).symm⟩

theorem RanCommands.deliver (s : State) (r : Response) : RanCommands 1 s (s.deliver r) :=
  ⟨rfl, rfl, rfl, [r], rfl, rfl⟩

/-- What a command writes before its response is neither `pc`, nor the responses, nor the program or parameters. -/
theorem ranCommands_effect (i : Instr) (s : State) : RanCommands 0 s (effect i s) := by
  cases i with
  | stb sp =>
    exact .of_eq (s.store_pc sp _ _) (s.store_program sp _ _) (s.store_params sp _ _) (s.store_responses sp _ _)
  | encode => exact .of_eq (s.encoded_pc _) (s.encoded_program _) (s.encoded_params _) (s.encoded_responses _)
  | _ => exact .of_eq rfl rfl rfl rfl

theorem ranCommands_unspecifyRecord (s : State) : RanCommands 0 s s.unspecifyRecord := .of_eq rfl rfl rfl rfl

/-- Every command ends with one response. -/
theorem exec_ranCommands (i : Instr) (s : State) : ∃ t, exec i s = .next t ∧ RanCommands 1 s t := by
  have h := exec_answers i s
  generalize exec i s = o at h ⊢
  cases h with
  | refused st => exact ⟨_, rfl, .deliver s _⟩
  | completed v => exact ⟨_, rfl, (ranCommands_effect i s).trans (.deliver _ _)⟩
  | failed a imm st => exact ⟨_, rfl, (ranCommands_unspecifyRecord s).trans (.deliver _ _)⟩

/-- Where the host has given a next command a step runs one. -/
theorem step_ranCommands {s : State} (h : s.pc < s.program.length) :
    ∃ t, step s = .next t ∧ RanCommands 1 s t := by
  rcases step_of_lt h with ⟨i, hi⟩ | hr
  · rw [hi]
    exact exec_ranCommands i s
  · exact ⟨_, hr, .deliver s _⟩

theorem core_run_succ {k : Nat} {s t : core.State} (h : core.step s = .next t) :
    core.run (k + 1) s = core.run k t := by
  rw [Host.Core.run, h]

/-- As many steps as there are commands left, or fewer, run as many commands. -/
theorem run_ranCommands (k : Nat) (s : State) (h : s.pc + k ≤ s.program.length) :
    ∃ t, core.run k s = .next t ∧ RanCommands k s t := by
  induction k generalizing s with
  | zero => exact ⟨s, rfl, .of_eq rfl rfl rfl rfl⟩
  | succ k ih =>
    obtain ⟨t, hstep, ht⟩ := step_ranCommands (s := s) (by omega)
    obtain ⟨u, hrun, hu⟩ := ih t (by rw [ht.pc, ht.program]; omega)
    refine ⟨u, ?_, Nat.add_comm 1 k ▸ ht.trans hu⟩
    exact (core_run_succ hstep).trans hrun

/-! ### The column "written by" of the register map -/

/-- The response changes no register. -/
theorem value_deliver (s : State) (r : Response) (reg : Reg) : reg.value (s.deliver r) = reg.value s := by
  cases reg <;> rfl

/-- A failed DECODE leaves `LR.WLEN` and the parent as they were (44_decode.md R222). -/
theorem value_unspecifyRecord (s : State) (a : Half) (imm : Word) (reg : Reg)
    (h : mayWrite s reg (.decode a imm) = false) : reg.value s.unspecifyRecord = reg.value s := by
  cases reg with
  | wlen | pvalid | psrc | pdst | pproto => rfl
  | _ => cases h

/-- ENCODE writes `LR.WLEN`, with ENC_WRITEBACK the length and the checksum, and the protocol of a parent. -/
theorem value_encoded (s : State) (h : BitVec 4) (imm : Word) (reg : Reg)
    (hw : mayWrite s reg (.encode imm) = false) : reg.value (s.encoded h) = reg.value s := by
  cases reg with
  | wlen => cases hw
  | optlen | paylen | payvalid => simp [Reg.value]
  | hlw | csum =>
    have hoff : s.params.encWriteback = false := hw
    simp [Reg.value, State.encoded_hr, hoff]
  | pproto =>
    have hoff : s.parent.valid ≠ 1 := by simpa [mayWrite] using hw
    simp only [Reg.value, State.encoded_parent, if_neg hoff]
  | pvalid | psrc | pdst =>
    simp only [Reg.value, State.encoded_parent]
    split <;> rfl
  | _ =>
    simp only [Reg.value, State.encoded_hr]
    split <;> rfl

/-- A store changes no register. -/
theorem value_store (s : State) (sp : Space) (a : Nat) (bs : List Byte) (reg : Reg) :
    reg.value (s.store sp a bs) = reg.value s := by
  cases reg <;> simp only [Reg.value, State.store_hr, State.store_lr, State.store_parent]

/-- A completed command writes no register but those the map lists for it. -/
theorem value_effect (i : Instr) (s : State) (reg : Reg) (h : mayWrite s reg i = false) :
    reg.value (effect i s) = reg.value s := by
  cases i with
  | encode imm => exact value_encoded s _ imm reg h
  | stb sp => exact value_store s sp _ _ reg
  | clear | rstCsum | setSport | setDport | setSeq | setAck | setHlw | setFlags | setWin | setCsum | setUrg | setOpts
  | setPay | clrPay | setPsrc | setPdst | setPproto | setPvalid | decode =>
    -- either the map lists the register for the command, or the update leaves its field alone
    revert h
    cases reg <;> simp [mayWrite, effect, Reg.value]
  | _ => rfl

/-- A completed command stores to no memory but those the map lists for it. -/
theorem mem_effect (i : Instr) (s : State) (sp : Space) (h : mayStore sp i = false) :
    (effect i s).mem sp = s.mem sp := by
  cases i with
  | stb sp' a imm =>
    rw [effect, State.store_mem, if_neg]
    rintro rfl
    cases sp <;> cases h
  | encode imm =>
    cases sp with
    | wire => cases h
    | opt => exact s.encoded_opt _
    | pay => exact s.encoded_pay _
  | decode a imm =>
    cases sp with
    | wire => rfl
    | opt | pay => cases h
  | _ => cases sp <;> rfl

/-- A failed DECODE stores to no memory but OPT and PAY. -/
theorem mem_unspecifyRecord (s : State) (a : Half) (imm : Word) (sp : Space)
    (h : mayStore sp (.decode a imm) = false) : s.unspecifyRecord.mem sp = s.mem sp := by
  cases sp with
  | wire => rfl
  | opt | pay => cases h

/-- Where the memory of a space is as before, its bytes read as before, after the response too. -/
theorem readByte_deliver {s u : State} {sp : Space} (h : u.mem sp = s.mem sp) (r : Response) (a : Nat) :
    (u.deliver r).readByte sp a = s.readByte sp a :=
  State.readByte_congr ((u.deliver_mem r sp).trans h) a

/-! ### Reads of bytes that agree -/

theorem State.readBytes_congr {s t : State} {sp : Space} {a n : Nat}
    (h : ∀ k, k < n → s.readByte sp (a + k) = t.readByte sp (a + k)) :
    s.readBytes sp a n = t.readBytes sp a n := by
  refine List.ext_getElem (by simp) fun k hk _ => ?_
  rw [State.length_readBytes] at hk
  simpa using h k hk

theorem State.read32_congr {s t : State} {sp : Space} {a : Nat}
    (h : ∀ k, k < 4 → s.readByte sp (a + k) = t.readByte sp (a + k)) : s.read32 sp a = t.read32 sp a := by
  have h0 := h 0 (by omega)
  have h1 := h 1 (by omega)
  have h2 := h 2 (by omega)
  have h3 := h 3 (by omega)
  simp only [State.read32, State.read16, Nat.add_assoc, Nat.add_zero, Nat.reduceAdd] at *
  rw [h0, h1, h2, h3]

theorem State.read64_congr {s t : State} {sp : Space} {a : Nat}
    (h : ∀ k, k < 8 → s.readByte sp (a + k) = t.readByte sp (a + k)) : s.read64 sp a = t.read64 sp a := by
  have hhi : s.read32 sp a = t.read32 sp a := State.read32_congr fun k hk => h k (by omega)
  have hlo : s.read32 sp (a + 4) = t.read32 sp (a + 4) := State.read32_congr fun k hk => by
    rw [Nat.add_assoc]
    exact h _ (by omega)
  rw [State.read64, State.read64, hhi, hlo]

/-! ### Two runs of a command, from a state and from that state changed -/

/-- The outcome with its next state changed by `f`. -/
def mapNext (f : State → State) : Host.Outcome State Fault Refusal → Host.Outcome State Fault Refusal
  | .next t => .next (f t)
  | .fault r => .fault r
  | .refused r => .refused r

/-- `f` changes nothing that delivering a response changes. -/
def KeepsDelivery (f : State → State) : Prop := ∀ (s : State) (r : Response), f (s.deliver r) = (f s).deliver r

section TwoRuns

variable {f : State → State} (hf : KeepsDelivery f)

include hf

theorem respond_mapNext (v : DWord) (s : State) : respond v (f s) = mapNext f (respond v s) :=
  congrArg Host.Outcome.next (hf s _).symm

theorem raise_mapNext (st : Status) (s : State) : raise st (f s) = mapNext f (raise st s) :=
  congrArg Host.Outcome.next (hf s _).symm

theorem withOperand_mapNext {n : Nat} {imm : Word} {s : State}
    {run run' : BitVec n → Host.Outcome State Fault Refusal} (h : ∀ v, run' v = mapNext f (run v)) :
    withOperand n imm (f s) run' = mapNext f (withOperand n imm s run) := by
  unfold withOperand
  split
  · exact h _
  · exact raise_mapNext hf _ s

theorem withAddress_mapNext {sp : Space} {a : Half} {s : State} {run run' : Nat → Host.Outcome State Fault Refusal}
    (h : ∀ x, run' x = mapNext f (run x)) :
    withAddress sp a (f s) run' = mapNext f (withAddress sp a s run) := by
  unfold withAddress
  split
  · exact h _
  · exact raise_mapNext hf _ s

theorem withWindow_mapNext {a len : Half} {s : State} {run run' : Nat → Nat → Host.Outcome State Fault Refusal}
    (h : ∀ x y, run' x y = mapNext f (run x y)) :
    withWindow a len (f s) run' = mapNext f (withWindow a len s run) := by
  unfold withWindow
  split
  · exact h _ _
  · exact raise_mapNext hf _ s

/-- A query answers the same where the length is the same and the value is, whenever the index is below it. -/
theorem withOptionIndex_mapNext {last : Nat} {s : State} {v v' : DWord} (hlen : (f s).lr.optlen = s.lr.optlen)
    (hv : last < s.lr.optlen.toNat → v' = v) :
    withOptionIndex last (f s) v' = mapNext f (withOptionIndex last s v) := by
  unfold withOptionIndex
  rw [hlen]
  split
  · next h => exact hv h ▸ respond_mapNext hf v' s
  · exact raise_mapNext hf _ s

theorem setRegister_mapNext {n : Nat} {imm : Word} {s : State} {write write' : BitVec n → State}
    (h : ∀ v, write' v = f (write v)) :
    setRegister n imm (f s) write' = mapNext f (setRegister n imm s write) :=
  withOperand_mapNext hf fun v => (congrArg (respond 0) (h v)).trans (respond_mapNext hf 0 _)

theorem getRegister_mapNext {n : Nat} {imm : Word} {s : State} {v v' : BitVec n} (h : v' = v) :
    getRegister imm (f s) v' = mapNext f (getRegister imm s v) :=
  h ▸ withOperand_mapNext hf fun _ => respond_mapNext hf _ s

/-- The option extractor does the same where `LR.OPTLEN` is the same and so is every option byte below it
(10_state.md R41; 45_option_extractor.md R230). -/
theorem exec_extractor_mapNext {i : Instr} {imm : Word} {s : State}
    (hi : i = .mpEnabled imm ∨ i = .mpSubtype imm ∨ i = .mpKey imm ∨ i = .mpToken imm)
    (hlen : (f s).lr.optlen = s.lr.optlen)
    (hb : ∀ a, a < s.lr.optlen.toNat → (f s).readByte .opt a = s.readByte .opt a) :
    exec i (f s) = mapNext f (exec i s) := by
  rcases hi with rfl | rfl | rfl | rfl <;> simp only [exec]
  · refine withOperand_mapNext hf fun _ => ?_
    rw [hlen]
    split
    · next h => rw [hb 20 h, respond_mapNext hf]
    · exact respond_mapNext hf 0 s
  · refine withOperand_mapNext hf fun _ => withOptionIndex_mapNext hf hlen fun h => ?_
    rw [hb 22 h]
  · refine withOperand_mapNext hf fun _ => withOptionIndex_mapNext hf hlen fun h => ?_
    exact State.read64_congr fun k hk => hb _ (by omega)
  · refine withOperand_mapNext hf fun _ => withOptionIndex_mapNext hf hlen fun h => ?_
    rw [State.read32_congr fun k hk => hb _ (by omega)]

end TwoRuns

/-! ### The column "read by": the parent context and `LR.WLEN` -/

/-- The parent context replaced by `p` of it and `LR.WLEN` by `w` of it. -/
def State.replaceUnread (p : ParentContext → ParentContext) (w : Half → Half) (s : State) : State :=
  { s with parent := p s.parent, lr := { s.lr with wlen := w s.lr.wlen } }

section ReplaceUnread

variable (p : ParentContext → ParentContext) (w : Half → Half)

theorem keepsDelivery_replaceUnread : KeepsDelivery (State.replaceUnread p w) := fun _ _ => rfl

theorem State.store_replaceUnread (s : State) (sp : Space) (a : Nat) (bs : List Byte) :
    (s.replaceUnread p w).store sp a bs = (s.store sp a bs).replaceUnread p w := by
  cases sp <;> rfl

theorem State.readByte_replaceUnread (s : State) (sp : Space) (a : Nat) :
    (s.replaceUnread p w).readByte sp a = s.readByte sp a := by
  cases sp <;> rfl

theorem State.readBytes_replaceUnread (s : State) (sp : Space) (a n : Nat) :
    (s.replaceUnread p w).readBytes sp a n = s.readBytes sp a n :=
  State.readBytes_congr fun _ _ => s.readByte_replaceUnread p w sp _

theorem State.populate_replaceUnread (s : State) (off len : Nat) :
    (s.replaceUnread p w).populate off len = (s.populate off len).replaceUnread p w := by
  simp only [State.populate, State.readBytes_replaceUnread]
  rfl

/-- DECODE reads neither the parent nor `LR.WLEN` (44_decode.md R221). -/
theorem execDecode_replaceUnread (a : Half) (imm : Word) (s : State) :
    execDecode a imm (s.replaceUnread p w) = mapNext (State.replaceUnread p w) (execDecode a imm s) := by
  have hf := keepsDelivery_replaceUnread p w
  refine withOperand_mapNext hf fun len16 => withWindow_mapNext hf fun off len => ?_
  have hnibble : (s.replaceUnread p w).read16 .wire (off + 12) = s.read16 .wire (off + 12) := rfl
  have hfail : ∀ st, failDecode st (s.replaceUnread p w) = mapNext (State.replaceUnread p w) (failDecode st s) :=
    fun _ => rfl
  have hpopulate := s.clearRecord.populate_replaceUnread p w off len
  rw [hnibble]
  split
  · exact hfail _
  · split
    · exact hfail _
    · split
      · exact hfail _
      · exact (congrArg (respond 0) hpopulate).trans (respond_mapNext hf 0 _)

/-- Every command but ENCODE does the same whatever stands in the parent context, where the map does not let it use
that, and in `LR.WLEN`, where it is not GET_WLEN. -/
theorem exec_replaceUnread (i : Instr) (s : State) (hp : usesParent i = true → p = id)
    (hw : ∀ imm, i = .getWlen imm → w = id) (he : ∀ imm, i ≠ .encode imm) :
    exec i (s.replaceUnread p w) = mapNext (State.replaceUnread p w) (exec i s) := by
  have hf := keepsDelivery_replaceUnread p w
  cases i with
  | setSport | setDport | setSeq | setAck | setHlw | setFlags | setWin | setCsum | setUrg | setPay =>
    simp only [exec]
    exact setRegister_mapNext hf fun _ => rfl
  | setPsrc | setPdst | setPproto | setPvalid =>
    cases hp rfl
    simp only [exec]
    exact setRegister_mapNext hf fun _ => rfl
  | getPsrc | getPdst | getPproto | getPvalid =>
    cases hp rfl
    exact getRegister_mapNext hf rfl
  | getWlen imm =>
    cases hw imm rfl
    exact getRegister_mapNext hf rfl
  | getSport | getDport | getSeq | getAck | getHlw | getFlags | getWin | getCsum | getUrg | getOptlen | getPaylen
  | getPayvalid => exact getRegister_mapNext hf rfl
  | encode imm => exact absurd rfl (he imm)
  | clear | rstCsum | clrPay =>
    simp only [exec]
    exact withOperand_mapNext hf fun _ => rfl
  | setOpts =>
    simp only [exec]
    refine withOperand_mapNext hf fun n => ?_
    split
    · exact raise_mapNext hf _ s
    · rfl
  | stb sp a imm =>
    refine withOperand_mapNext hf fun b => withAddress_mapNext hf fun x => ?_
    rw [State.store_replaceUnread]
    exact respond_mapNext hf 0 _
  | ldb sp a imm =>
    refine withOperand_mapNext hf fun b => withAddress_mapNext hf fun x => ?_
    rw [State.readByte_replaceUnread]
    exact respond_mapNext hf _ s
  | decode a imm => exact execDecode_replaceUnread p w a imm s
  | cksum a imm =>
    cases hp rfl
    refine withOperand_mapNext hf fun n => withWindow_mapNext hf fun off len => ?_
    rw [State.readBytes_replaceUnread]
    exact respond_mapNext hf _ s
  | mpEnabled imm | mpSubtype imm | mpKey imm | mpToken imm =>
    exact exec_extractor_mapNext (imm := imm) hf (by simp) rfl fun _ _ => s.readByte_replaceUnread p w _ _

end ReplaceUnread

/-! ### Stale option bytes -/

/-- The memory OPT replaced. -/
def State.replaceOpt (m : Memory) (s : State) : State := { s with opt := m }

theorem keepsDelivery_replaceOpt (m : Memory) : KeepsDelivery (State.replaceOpt m) := fun _ _ => rfl

/-- A command other than DECODE that writes nothing when it completes changes nothing but what every command does. -/
theorem exec_of_effect_eq {i : Instr} {s : State} (he : effect i s = s) (hd : ∀ a imm, i ≠ .decode a imm) :
    ∃ r, exec i s = .next (s.deliver r) := by
  have h := exec_answers i s
  generalize exec i s = o at h ⊢
  cases h with
  | refused st => exact ⟨_, rfl⟩
  | completed v => exact ⟨⟨.ok, v⟩, by rw [he]⟩
  | failed a imm st hi => exact absurd hi (hd a imm)

end Sys2Proof.Machine

/-! ### The statements settled -/

section

open Sys2Proof Sys2Proof.Machine

/-- Settles O3: whatever the command answers, what it leaves before its response meets the invariant. -/
theorem stepKeepsTheInvariant : Obligations.StepKeepsTheInvariant := by
  intro s t hs ht
  rcases Nat.lt_or_eq_of_le hs.pc_le with hlt | hend
  · rcases step_of_lt hlt with ⟨i, hi⟩ | hr
    · rw [hi] at ht
      cases ht ▸ exec_answers i s with
      | refused st => exact hs.deliver hlt _
      | completed v hwf ha =>
        have hran := ranCommands_effect i s
        exact (hs.effect hwf ha).deliver (by rw [hran.pc, hran.program]; exact hlt) _
      | failed a imm st => exact hs.unspecifyRecord.deliver hlt _
    · cases ht.symm.trans hr
      exact hs.deliver hlt _
  · cases ht.symm.trans (step_of_end hend)
    exact hs

/-- Settles O4, by induction on the number of steps. -/
theorem programsRunToTheirEnd : Obligations.ProgramsRunToTheirEnd := by
  intro s k h
  obtain ⟨t, hrun, ht⟩ := run_ranCommands k s h
  exact ⟨t, hrun, ht.pc, ht.program, ht.params, ht.responses⟩

/-- Settles O19, by the three things a command can answer: only what it writes before its response matters. -/
theorem onlyListedCommandsWrite : Obligations.OnlyListedCommandsWrite := by
  intro i s t ht
  cases ht ▸ exec_answers i s with
  | refused st => exact ⟨fun reg _ => value_deliver s _ reg, fun sp _ => readByte_deliver rfl _⟩
  | completed v =>
    exact ⟨fun reg h => (value_deliver _ _ reg).trans (value_effect i s reg h),
      fun sp h => readByte_deliver (mem_effect i s sp h) _⟩
  | failed a imm st hi =>
    subst hi
    exact ⟨fun reg h => (value_deliver _ _ reg).trans (value_unspecifyRecord s a imm reg h),
      fun sp h => readByte_deliver (mem_unspecifyRecord s a imm sp h) _⟩

/-- Settles O20: one theorem of two runs, with the parent replaced in the first clause and `LR.WLEN` in the second. -/
theorem onlyListedCommandsReadTheParent : Obligations.OnlyListedCommandsReadTheParent := by
  refine ⟨fun i s t p hi ht => ?_, fun i s t w he hg ht => ?_⟩
  · have hencode : ∀ imm, i ≠ .encode imm := by
      rintro imm rfl
      cases hi
    have h := exec_replaceUnread (fun _ => p) id i s (fun hu => absurd (hi.symm.trans hu) (by decide))
      (fun _ _ => rfl) hencode
    rw [ht] at h
    exact h
  · have h := exec_replaceUnread id (fun _ => w) i s (fun _ => rfl) (fun imm e => absurd e (hg imm)) he
    rw [ht] at h
    exact h

/-- Settles O52: the extractor reads no byte of OPT at or beyond `LR.OPTLEN`. -/
theorem extractorIgnoresStaleBytes : Obligations.ExtractorIgnoresStaleBytes := by
  intro s m imm i hb hi
  obtain ⟨heffect, hdecode⟩ : effect i s = s ∧ ∀ a imm', i ≠ .decode a imm' := by
    rcases hi with rfl | rfl | rfl | rfl <;> exact ⟨rfl, nofun⟩
  obtain ⟨r, hr⟩ := exec_of_effect_eq heffect hdecode
  have h := exec_extractor_mapNext (keepsDelivery_replaceOpt m) hi rfl hb
  rw [hr] at h
  exact ⟨r, hr, h⟩

/-- Settles O1: the zero state register by register, and what CLEAR leaves of any state. -/
theorem resetLeavesEveryRegisterZero : Obligations.ResetLeavesEveryRegisterZero := by
  refine ⟨fun r => by cases r <;> rfl, rfl, fun sp a => ?_, fun s => ⟨_, rfl, rfl, rfl, rfl, rfl⟩⟩
  rw [State.readByte, State.reset_mem, Memory.read_unwritten]
  rfl

/-- Settles O2: unwritten memories are in canonical form. -/
theorem resetMeetsTheInvariant : Obligations.ResetMeetsTheInvariant where
  pc_le := Nat.le_refl _
  optlen_le := Nat.zero_le _
  paylen_zero := fun _ => rfl
  mem_wf := fun sp => by rw [State.reset_mem, Memory.wf_unwritten]

/-- Settles O5, by what `step` does with a word that is a command. -/
theorem stepRunsTheDecodedCommand : Obligations.StepRunsTheDecodedCommand :=
  fun _ _ _ hc hd => step_of_command hc hd

/-- Settles O7, by what `step` does where no word is fetched. -/
theorem idleAtTheEndOfTheProgram : Obligations.IdleAtTheEndOfTheProgram :=
  ⟨fun _ h => step_of_end h, fun _ h => step_of_past h⟩

/-- Settles O8: the word placed is the one fetched, and a command decodes from its own word. -/
theorem placedCommandIsTheNextRun : Obligations.PlacedCommandIsTheNextRun := by
  intro s i
  have hword : BitVec.ofNat 64 ((encodeWord i).toNat % 2 ^ 64) = encodeWord i := by
    rw [Nat.mod_eq_of_lt (encodeWord i).isLt, BitVec.ofNat_toNat, BitVec.setWidth_eq]
  have hfetch := s.withFetchWord_fetch 64 (encodeWord i).toNat
  rw [hword] at hfetch
  exact ⟨step_of_command hfetch (decodeWord_encodeWord i), rfl⟩

end

/-! PROOFS for 20_memory.md: what a load and a store of one byte answer, said once for every space and address; from
it, what a load after a store answers. -/

namespace Sys2Proof.Machine

/-- Only an OPT address can lie outside its space: PAY and WIRE have a byte at every 16-bit address (R67). -/
theorem Space.lt_size {sp : Space} {a : Half} (h : sp = .opt → a.toNat < Config.optMax) : a.toNat < sp.size := by
  cases sp with
  | opt => exact h rfl
  | pay | wire => exact a.isLt

/-- The response delivered can be read off the state. -/
theorem State.deliver_injective (s : State) : Function.Injective s.deliver := fun _ _ h =>
  List.singleton_injective (List.append_cancel_left (congrArg State.responses h))

/-- The response of LDB without an operand: the byte, zero-extended, or AddressOutOfRange (41_memory_access.md R162). -/
def State.loadResponse (s : State) (sp : Space) (a : Half) : Response :=
  if a.toNat < sp.size then ⟨.ok, (s.readByte sp a.toNat).setWidth 64⟩ else ⟨.addressOutOfRange, 0⟩

/-- LDB without an operand delivers its response and changes nothing. -/
theorem exec_ldb (sp : Space) (a : Half) (s : State) :
    exec (.ldb sp a 0) s = .next (s.deliver (s.loadResponse sp a)) := by
  rw [exec, execLdb, withOperand_none, withAddress, State.loadResponse]
  split <;> rfl

/-- A load inside its space responds with the byte. -/
theorem State.loadResponse_inside {sp : Space} {a : Half} (s : State) (h : a.toNat < sp.size) :
    s.loadResponse sp a = ⟨.ok, (s.readByte sp a.toNat).setWidth 64⟩ := if_pos h

/-- A load depends on the state by the byte at its address only. -/
theorem State.loadResponse_congr {s t : State} {sp : Space} {a : Half}
    (h : s.readByte sp a.toNat = t.readByte sp a.toNat) : s.loadResponse sp a = t.loadResponse sp a := by
  rw [State.loadResponse, State.loadResponse, h]

/-- STB inside its space stores the byte and responds `(OK, 0)` (41_memory_access.md R161). -/
theorem exec_stb_inside {sp : Space} {a : Half} (b : Byte) (s : State) (h : a.toNat < sp.size) :
    exec (.stb sp a (b.setWidth 32)) s = .next ((s.store sp a.toNat [b]).deliver ⟨.ok, 0⟩) := by
  rw [exec, execStb, withOperand_value (by decide), withAddress, if_pos h, respond]

/-- The byte stored is the one at its address, whatever response follows. -/
theorem State.readByte_store_deliver_same (s : State) (sp : Space) (a : Nat) (b : Byte) (r : Response) :
    ((s.store sp a [b]).deliver r).readByte sp a = b :=
  (readByte_deliver rfl r a).trans (State.readByte_store_inside s sp a 0 [b] Nat.one_pos)

/-- A byte of another space or at another address is as it was before the store (20_memory.md R66). -/
theorem State.readByte_store_deliver_other (s : State) {sp sp' : Space} {a a' : Half} (b : Byte) (r : Response)
    (h : sp' ≠ sp ∨ a' ≠ a) :
    ((s.store sp a.toNat [b]).deliver r).readByte sp' a'.toNat = s.readByte sp' a'.toNat := by
  have hout : sp' ≠ sp ∨ a'.toNat < a.toNat ∨ a.toNat + [b].length ≤ a'.toNat :=
    h.imp_right fun hne => Nat.lt_or_gt_of_ne fun e => hne (BitVec.eq_of_toNat_eq e)
  exact (readByte_deliver rfl r _).trans (State.readByte_store_outside s sp sp' a.toNat a'.toNat [b] hout)

end Sys2Proof.Machine

section

open Sys2Proof Sys2Proof.Machine

/-- Settles O31: a load responds by the byte at its address, which is the stored one at the store's own address and as
before the store at any other. -/
theorem loadAfterStoreGivesTheByte : Obligations.LoadAfterStoreGivesTheByte := by
  intro s t sp sp' a a' b hopt hstb
  have hfits : a.toNat < sp.size := Space.lt_size hopt
  cases hstb.symm.trans (exec_stb_inside b s hfits)
  refine ⟨?_, fun hother r hldb => ?_⟩
  · rw [exec_ldb, State.loadResponse_inside _ hfits, State.readByte_store_deliver_same]
    rfl
  · have hr : s.loadResponse sp' a' = r :=
      s.deliver_injective (Host.Outcome.next.inj ((exec_ldb sp' a' s).symm.trans hldb))
    rw [exec_ldb, State.loadResponse_congr (s.readByte_store_deliver_other b _ hother), hr]
    rfl

end

/-! PROOFS for 30_encoding.md: the decoder by the operand form of its rows, and from it that a word which decodes to a
command is that command's; the masks of the opcode table over the four fields; the commands that pass every range
check. -/

namespace Sys2Proof

open Sys2Proof.Claims

/-! ### A word is determined by its fields, and a mask picks fields out of it -/

/-- Every word is put together from four fields. -/
theorem exists_commandWord (c : DWord) : ∃ op sp a imm, c = commandWord op sp a imm :=
  ⟨_, _, _, _, (commandWord_fields c).symm⟩

/-- Two words are the same exactly when their fields are. -/
theorem commandWord_inj {op op' sp sp' : BitVec 8} {a a' : Half} {imm imm' : Word} :
    commandWord op sp a imm = commandWord op' sp' a' imm' ↔ op = op' ∧ sp = sp' ∧ a = a' ∧ imm = imm' := by
  constructor
  · intro h
    have hop := congrArg opField h
    have hsp := congrArg spField h
    have ha := congrArg aField h
    have himm := congrArg immField h
    simp only [opField_commandWord, spField_commandWord, aField_commandWord, immField_commandWord] at hop hsp ha himm
    exact ⟨hop, hsp, ha, himm⟩
  · rintro ⟨rfl, rfl, rfl, rfl⟩
    rfl

/-- The bitwise and of two words goes field by field. -/
theorem commandWord_and (op op' sp sp' : BitVec 8) (a a' : Half) (imm imm' : Word) :
    commandWord op sp a imm &&& commandWord op' sp' a' imm' =
      commandWord (op &&& op') (sp &&& sp') (a &&& a') (imm &&& imm') := by
  change (op ++ sp ++ a ++ imm) &&& (op' ++ sp' ++ a' ++ imm') = _
  rw [BitVec.and_append, BitVec.and_append, BitVec.and_append, commandWord]

/-- The mask of most rows picks `op`, `sp` and `a` (30_encoding.md R94). -/
theorem commandWord_and_plainMask (op sp : BitVec 8) (a : Half) (imm : Word) :
    commandWord op sp a imm &&& 0xFFFFFFFF00000000 = commandWord op sp a 0 := by
  have hmask : (0xFFFFFFFF00000000 : DWord) = commandWord (.allOnes 8) (.allOnes 8) (.allOnes 16) 0 := by decide
  simp only [hmask, commandWord_and, BitVec.and_allOnes, BitVec.ofNat_eq_ofNat, BitVec.and_zero]

/-- The mask of DECODE and CKSUM picks `op` and `sp` (30_encoding.md R94). -/
theorem commandWord_and_windowMask (op sp : BitVec 8) (a : Half) (imm : Word) :
    commandWord op sp a imm &&& 0xFFFF000000000000 = commandWord op sp 0 0 := by
  have hmask : (0xFFFF000000000000 : DWord) = commandWord (.allOnes 8) (.allOnes 8) 0 0 := by decide
  simp only [hmask, commandWord_and, BitVec.and_allOnes, BitVec.ofNat_eq_ofNat, BitVec.and_zero]

/-- The mask of STB and LDB picks `op` (30_encoding.md R94). -/
theorem commandWord_and_spaceMask (op sp : BitVec 8) (a : Half) (imm : Word) :
    commandWord op sp a imm &&& 0xFF00000000000000 = commandWord op 0 0 0 := by
  have hmask : (0xFF00000000000000 : DWord) = commandWord (.allOnes 8) 0 0 0 := by decide
  simp only [hmask, commandWord_and, BitVec.and_allOnes, BitVec.ofNat_eq_ofNat, BitVec.and_zero]

/-- A space's selector is not reserved (20_memory.md R67). -/
theorem Space.selector_le (sp : Space) : sp.selector.toNat ≤ 2 := by
  cases sp <;> decide

/-! ### A word that decodes to a command -/

theorem command_of_decodePlain {c : DWord} {mk : Word → Instr} {i : Instr} (h : decodePlain c mk = .command i) :
    ∃ imm, i = mk imm ∧ c = commandWord (opField c) 0 0 imm := by
  have hc := commandWord_fields c
  unfold decodePlain at h
  split at h
  · next hz =>
    obtain ⟨hsp, ha⟩ := hz
    cases h
    rw [hsp, ha] at hc
    exact ⟨_, rfl, hc.symm⟩
  · cases h

theorem command_of_decodeWindow {c : DWord} {mk : Half → Word → Instr} {i : Instr}
    (h : decodeWindow c mk = .command i) : ∃ a imm, i = mk a imm ∧ c = commandWord (opField c) 0 a imm := by
  have hc := commandWord_fields c
  unfold decodeWindow at h
  split at h
  · next hsp =>
    cases h
    rw [hsp] at hc
    exact ⟨_, _, rfl, hc.symm⟩
  · cases h

theorem command_of_decodeSpace {c : DWord} {mk : Space → Half → Word → Instr} {i : Instr}
    (h : decodeSpace c mk = .command i) :
    ∃ sp a imm, i = mk sp a imm ∧ c = commandWord (opField c) sp.selector a imm := by
  have hc := commandWord_fields c
  unfold decodeSpace at h
  split at h
  · next sp hsp =>
    cases h
    rw [← Space.selector_of_ofSelector hsp] at hc
    exact ⟨_, _, _, rfl, hc.symm⟩
  · cases h

/-- Everything the decoder can do with a word whose opcode is `n`: refuse it, or read it in the operand form of a row
of the opcode map, whose commands the encoder gives that opcode and that form (30_encoding.md R90, R92). -/
inductive ReadsByForm (c : DWord) (n : Nat) : Decoded → Prop where
  | illegal (why : Illegal) : ReadsByForm c n (.illegal why)
  | plain (mk : Word → Instr) (hmk : ∀ imm, encodeWord (mk imm) = commandWord (.ofNat 8 n) 0 0 imm) :
      ReadsByForm c n (decodePlain c mk)
  | window (mk : Half → Word → Instr)
      (hmk : ∀ a imm, encodeWord (mk a imm) = commandWord (.ofNat 8 n) 0 a imm) : ReadsByForm c n (decodeWindow c mk)
  | space (mk : Space → Half → Word → Instr)
      (hmk : ∀ sp a imm, encodeWord (mk sp a imm) = commandWord (.ofNat 8 n) sp.selector a imm) :
      ReadsByForm c n (decodeSpace c mk)

/-- The opcode map of the decoder is that of the encoder, row by row. -/
theorem decodeWord_readsByForm (c : DWord) : ReadsByForm c (opField c).toNat (decodeWord c) := by
  unfold decodeWord
  generalize (opField c).toNat = n
  split
  -- the form is the one the arm calls; in each row but the last the two maps agree by evaluation
  all_goals constructor
  all_goals intros; rfl

/-- A word that decodes to a command is that command's. -/
theorem encodeWord_of_decodeWord {c : DWord} {i : Instr} (h : decodeWord c = .command i) : encodeWord i = c := by
  have hop : BitVec.ofNat 8 (opField c).toNat = opField c := by rw [BitVec.ofNat_toNat, BitVec.setWidth_eq]
  have hform := decodeWord_readsByForm c
  generalize decodeWord c = d at h hform
  cases hform with
  | illegal => cases h
  | plain mk hmk =>
    obtain ⟨imm, rfl, hc⟩ := command_of_decodePlain h
    rw [hmk, hop, ← hc]
  | window mk hmk =>
    obtain ⟨a, imm, rfl, hc⟩ := command_of_decodeWindow h
    rw [hmk, hop, ← hc]
  | space mk hmk =>
    obtain ⟨sp, a, imm, rfl, hc⟩ := command_of_decodeSpace h
    rw [hmk, hop, ← hc]

/-! ### The fields of a command's word -/

/-- The word of a command has no reserved space selector. -/
theorem spField_encodeWord_le (i : Instr) : (spField (encodeWord i)).toNat ≤ 2 := by
  cases i with
  | stb sp | ldb sp =>
    rw [encodeWord, spField_commandWord]
    exact sp.selector_le
  | _ =>
    rw [encodeWord, spField_commandWord]
    decide

/-- The opcode of a command's word is in the opcode map (30_encoding.md R92). -/
theorem opField_encodeWord_mem (i : Instr) : (opField (encodeWord i)).toNat ∈ listedOpcodes := by
  cases i <;> rw [encodeWord, opField_commandWord] <;> decide

/-- No command's word is illegal. -/
theorem not_illegalFields_encodeWord (i : Instr) :
    ¬ illegalFields (opField (encodeWord i)) (spField (encodeWord i)) (aField (encodeWord i)) := by
  rintro (hop | ⟨-, hreserved⟩ | ⟨hform, hunused⟩ | ⟨hform, hunused⟩)
  · exact hop (opField_encodeWord_mem i)
  · exact absurd hreserved (Nat.not_lt.mpr (spField_encodeWord_le i))
  · cases i with
    | stb | ldb =>
      rw [encodeWord, opField_commandWord] at hform
      exact hform (by decide)
    | _ =>
      rw [encodeWord, spField_commandWord] at hunused
      exact hunused rfl
  · cases i with
    | stb | ldb | decode | cksum =>
      rw [encodeWord, opField_commandWord] at hform
      exact hform (by decide)
    | _ =>
      rw [encodeWord, aField_commandWord] at hunused
      exact hunused rfl

/-- A word with illegal fields decodes to no command (30_encoding.md R96). -/
theorem exists_illegal_of_illegalFields {op sp : BitVec 8} {a : Half} {imm : Word} (h : illegalFields op sp a) :
    ∃ why, decodeWord (commandWord op sp a imm) = .illegal why := by
  cases hd : decodeWord (commandWord op sp a imm) with
  | illegal why => exact ⟨why, rfl⟩
  | command i =>
    have hlegal := not_illegalFields_encodeWord i
    rw [encodeWord_of_decodeWord hd, opField_commandWord, spField_commandWord, aField_commandWord] at hlegal
    exact absurd h hlegal

/-! ### The rows of the opcode table -/

/-- The match of a row is the opcode in bits 63:56 and 0 elsewhere. -/
theorem tableRow_pattern (i : Instr) : i.tableRow.pattern = commandWord (opField (encodeWord i)) 0 0 0 := by
  cases i <;> rw [encodeWord, opField_commandWord] <;> rfl

/-- The rows with a side condition are those of STB and LDB. -/
theorem needsSpace_iff (i : Instr) :
    i.tableRow.needsSpace = true ↔ ∃ sp a imm, i = .stb sp a imm ∨ i = .ldb sp a imm := by
  cases i <;> simp [Instr.tableRow]

/-- The word of a command matches its row. -/
theorem encodeWord_and_mask (i : Instr) : encodeWord i &&& i.tableRow.mask = i.tableRow.pattern := by
  rw [tableRow_pattern]
  cases i with
  | stb | ldb =>
    rw [encodeWord, opField_commandWord]
    exact commandWord_and_spaceMask ..
  | decode | cksum =>
    rw [encodeWord, opField_commandWord]
    exact commandWord_and_windowMask ..
  | _ =>
    rw [encodeWord, opField_commandWord]
    exact commandWord_and_plainMask ..

/-- A word that matches a row, with a space where the row needs one, decodes to a command of the row. -/
theorem exists_command_of_matches {c : DWord} {i : Instr} (hm : c &&& i.tableRow.mask = i.tableRow.pattern)
    (hs : i.tableRow.needsSpace = true → (spField c).toNat ≤ 2) :
    ∃ j, decodeWord c = .command j ∧ j.tableRow = i.tableRow := by
  obtain ⟨op, sp, a, imm, rfl⟩ := exists_commandWord c
  rw [tableRow_pattern] at hm
  unfold decodeWord
  cases i with
  | stb | ldb =>
    obtain ⟨rfl, -⟩ := commandWord_inj.mp ((commandWord_and_spaceMask op sp a imm).symm.trans hm)
    obtain ⟨space, hspace⟩ := Option.isSome_iff_exists.mp ((Space.ofSelector_isSome _).mpr (hs rfl))
    rw [spField_commandWord] at hspace
    rw [← Space.selector_of_ofSelector hspace, opField_commandWord, encodeWord, opField_commandWord]
    exact ⟨_, Machine.decodeSpace_commandWord .., rfl⟩
  | decode | cksum =>
    obtain ⟨rfl, rfl, -⟩ := commandWord_inj.mp ((commandWord_and_windowMask op sp a imm).symm.trans hm)
    rw [opField_commandWord, encodeWord, opField_commandWord]
    exact ⟨_, Machine.decodeWindow_commandWord .., rfl⟩
  | _ =>
    obtain ⟨rfl, rfl, rfl, -⟩ := commandWord_inj.mp ((commandWord_and_plainMask op sp a imm).symm.trans hm)
    rw [opField_commandWord, encodeWord, opField_commandWord]
    exact ⟨_, Machine.decodePlain_commandWord .., rfl⟩

end Sys2Proof

namespace Sys2Proof.Machine

/-! ### Commands that pass every range check -/

/-- The status says of no operand, address or options length that it is out of its range. -/
def Status.InRange (st : Status) : Prop :=
  st ≠ .operandOutOfRange ∧ st ≠ .addressOutOfRange ∧ st ≠ .optionsTooLong

/-- From `s` the outcome is one more response, of a status that is no range status. -/
inductive AnswersInRange (s : State) : Host.Outcome State Fault Refusal → Prop where
  | deliver (u : State) (st : Status) (v : DWord) (hu : u.responses = s.responses) (hst : st.InRange) :
      AnswersInRange s (.next (u.deliver ⟨st, v⟩))

section RangeChecks

variable {s u : State}

theorem AnswersInRange.respond {v : DWord} (hu : u.responses = s.responses) : AnswersInRange s (respond v u) :=
  .deliver u .ok v hu ⟨nofun, nofun, nofun⟩

theorem AnswersInRange.raise {st : Status} (hst : st.InRange) (hu : u.responses = s.responses) :
    AnswersInRange s (raise st u) :=
  .deliver u st 0 hu hst

theorem AnswersInRange.withOperand {n : Nat} {imm : Word} {run : BitVec n → Host.Outcome State Fault Refusal}
    (hfits : imm.toNat < 2 ^ n) (h : AnswersInRange s (run (imm.setWidth n))) :
    AnswersInRange s (withOperand n imm s run) := by
  rwa [withOperand_fits hfits]

theorem AnswersInRange.withAddress {sp : Space} {a : Half} {run : Nat → Host.Outcome State Fault Refusal}
    (hfits : a.toNat < sp.size) (h : AnswersInRange s (run a.toNat)) : AnswersInRange s (withAddress sp a s run) := by
  rwa [Machine.withAddress, if_pos hfits]

theorem AnswersInRange.withWindow {a len : Half} {run : Nat → Nat → Host.Outcome State Fault Refusal}
    (hfits : a.toNat + len.toNat ≤ Config.wireSize) (h : AnswersInRange s (run a.toNat len.toNat)) :
    AnswersInRange s (withWindow a len s run) := by
  rwa [Machine.withWindow, if_pos hfits]

theorem AnswersInRange.withOptionIndex {last : Nat} {v : DWord} : AnswersInRange s (withOptionIndex last s v) := by
  unfold Machine.withOptionIndex
  split
  · exact .respond rfl
  · exact .raise ⟨nofun, nofun, nofun⟩ rfl

theorem AnswersInRange.setRegister {n : Nat} {imm : Word} {write : BitVec n → State} (hfits : imm.toNat < 2 ^ n)
    (hw : (write (imm.setWidth n)).responses = s.responses) : AnswersInRange s (setRegister n imm s write) :=
  .withOperand hfits (.respond hw)

theorem AnswersInRange.getRegister {n : Nat} {imm : Word} {v : BitVec n} (hfits : imm.toNat < 2 ^ 0) :
    AnswersInRange s (getRegister imm s v) :=
  .withOperand hfits (.respond rfl)

theorem execSetOpts_answersInRange {imm : Word} (hn : imm.toNat ≤ Config.optMax) :
    AnswersInRange s (execSetOpts imm s) := by
  have hlt : imm.toNat < 2 ^ 6 := Nat.lt_of_le_of_lt hn (by decide)
  refine .withOperand hlt ?_
  rw [BitVec.toNat_setWidth, Nat.mod_eq_of_lt hlt, if_neg (Nat.not_lt.mpr hn)]
  exact .respond rfl

theorem execStb_answersInRange {sp : Space} {a : Half} {imm : Word} (hb : imm.toNat < 2 ^ 8)
    (ha : a.toNat < sp.size) : AnswersInRange s (execStb sp a imm s) :=
  .withOperand hb (.withAddress ha (.respond (s.store_responses sp _ _)))

theorem execLdb_answersInRange {sp : Space} {a : Half} {imm : Word} (h0 : imm.toNat < 2 ^ 0)
    (ha : a.toNat < sp.size) : AnswersInRange s (execLdb sp a imm s) :=
  .withOperand h0 (.withAddress ha (.respond rfl))

theorem execEncode_answersInRange {imm : Word} (h0 : imm.toNat < 2 ^ 0) : AnswersInRange s (execEncode imm s) := by
  refine .withOperand h0 ?_
  dsimp only
  split
  · exact .raise ⟨nofun, nofun, nofun⟩ rfl
  · split
    · exact .raise ⟨nofun, nofun, nofun⟩ rfl
    · exact .respond (s.encoded_responses _)

theorem execDecode_answersInRange {a : Half} {imm : Word} (hn : imm.toNat < 2 ^ 16)
    (hw : a.toNat + (imm.setWidth 16 : Half).toNat ≤ Config.wireSize) : AnswersInRange s (execDecode a imm s) := by
  refine .withOperand hn (.withWindow hw ?_)
  split
  · exact .raise ⟨nofun, nofun, nofun⟩ rfl
  · split
    · exact .raise ⟨nofun, nofun, nofun⟩ rfl
    · split
      · exact .raise ⟨nofun, nofun, nofun⟩ rfl
      · exact .respond rfl

theorem execCksum_answersInRange {a : Half} {imm : Word} (hn : imm.toNat < 2 ^ 16)
    (hw : a.toNat + (imm.setWidth 16 : Half).toNat ≤ Config.wireSize) : AnswersInRange s (execCksum a imm s) :=
  .withOperand hn (.withWindow hw (.respond rfl))

theorem execMpEnabled_answersInRange {imm : Word} (h0 : imm.toNat < 2 ^ 0) :
    AnswersInRange s (execMpEnabled imm s) := by
  refine .withOperand h0 ?_
  split <;> exact .respond rfl

end RangeChecks

/-- A well-formed command passes every range check it makes (30_encoding.md R90 steps 3 and 4). -/
theorem exec_answersInRange {i : Instr} (s : State) (hi : i.wellFormed = true) : AnswersInRange s (exec i s) := by
  obtain ⟨hfits, haddr, hopts⟩ := (wellFormed_iff i).mp hi
  cases i with
  | clear | rstCsum | clrPay =>
    rw [exec]
    exact .withOperand hfits (.respond rfl)
  | setSport | setDport | setSeq | setAck | setHlw | setFlags | setWin | setCsum | setUrg | setPay | setPsrc | setPdst
  | setPproto | setPvalid =>
    rw [exec]
    exact .setRegister hfits rfl
  | getSport | getDport | getSeq | getAck | getHlw | getFlags | getWin | getCsum | getUrg | getOptlen | getPaylen
  | getPayvalid | getWlen | getPsrc | getPdst | getPproto | getPvalid => exact .getRegister hfits
  | setOpts => exact execSetOpts_answersInRange (of_decide_eq_true hopts)
  | stb => exact execStb_answersInRange hfits (of_decide_eq_true haddr)
  | ldb => exact execLdb_answersInRange hfits (of_decide_eq_true haddr)
  | encode => exact execEncode_answersInRange hfits
  | decode => exact execDecode_answersInRange hfits (of_decide_eq_true haddr)
  | cksum => exact execCksum_answersInRange hfits (of_decide_eq_true haddr)
  | mpEnabled => exact execMpEnabled_answersInRange hfits
  | mpSubtype | mpKey | mpToken =>
    rw [exec]
    exact .withOperand hfits .withOptionIndex

end Sys2Proof.Machine

section

open Sys2Proof Sys2Proof.Machine

/-- Settles O9: the decoder's case for the opcode reads back the fields the encoder wrote. -/
theorem decodeOfEncodeIsTheCommand : Obligations.DecodeOfEncodeIsTheCommand := decodeWord_encodeWord

/-- Settles O10, by the operand form in which the word was read. -/
theorem encodeOfDecodeIsTheWord : Obligations.EncodeOfDecodeIsTheWord := fun _ _ h => encodeWord_of_decodeWord h

/-- Settles O11: the word of a command matches the command's row, and a word that matches a row has the fields of one
of its commands. -/
theorem wordSpellsCommandIffItMatchesTheRow : Obligations.WordSpellsCommandIffItMatchesTheRow := by
  refine ⟨fun c i => ⟨?_, ?_⟩, fun i => ⟨tableRow_pattern i, by cases i <;> rfl, needsSpace_iff i⟩⟩
  · rintro ⟨j, hj, hrow⟩
    rw [← hrow, ← encodeWord_of_decodeWord hj]
    exact ⟨encodeWord_and_mask j, fun _ => spField_encodeWord_le j⟩
  · rintro ⟨hm, hs⟩
    exact exists_command_of_matches hm hs

/-- Settles O6: a word with illegal fields is no command's, so the decoder refuses it. -/
theorem illegalWordsAnswerIllegalCommand : Obligations.IllegalWordsAnswerIllegalCommand := by
  intro s op sp a imm hc hillegal
  obtain ⟨why, hd⟩ := exists_illegal_of_illegalFields hillegal
  exact step_of_illegal hc hd

/-- Settles O18: a command that passes its range checks ends with another status. -/
theorem wellFormedCommandsAreInRange : Obligations.WellFormedCommandsAreInRange := by
  intro i s t r hi ht hr
  cases ht ▸ exec_answersInRange s hi with
  | deliver u st v hu hst =>
    rw [State.deliver_responses, hu] at hr
    cases List.singleton_injective (List.append_cancel_left hr)
    exact hst

/-- Settles O12: each of the nine words is the encoding of its command. -/
theorem workedEncodingsDecode : Obligations.WorkedEncodingsDecode :=
  ⟨decodeWord_encodeWord (.setSport 1234), decodeWord_encodeWord (.setSeq 0xFFFFFFFF),
    decodeWord_encodeWord (.stb .opt 20 0x1E), decodeWord_encodeWord (.stb .wire 12 0x50),
    decodeWord_encodeWord (.ldb .pay 3 0), decodeWord_encodeWord (.decode 0 26),
    decodeWord_encodeWord (.decode 100 20), decodeWord_encodeWord (.encode 0), decodeWord_encodeWord (.mpKey 0)⟩

end

/-! PROOFS for 40_field_access.md: what makes a command a setter, a getter or a writer without an operand, said once
for each of the shapes the statements compare a command with; the length SET_OPTS derives, and its three answers. -/

namespace Sys2Proof.Machine

open Sys2Proof.Claims

/-! ### Setters, getters and writers without an operand -/

section CommandShapes

variable {n : Nat} {mk : Word → Instr}

/-- A command that is the setter of an `n`-bit register writes that register (40_field_access.md R110). -/
theorem writesOperand_of_setRegister {write : BitVec n → State → State}
    (h : ∀ imm s, exec (mk imm) s = setRegister n imm s fun v => write v s) (hn : n ≤ 32 := by decide) :
    WritesOperand n mk write :=
  ⟨fun s v => (h _ s).trans (withOperand_value hn v s _), fun s imm hwide => (h imm s).trans (withOperand_wide hwide)⟩

/-- A setter of a 32-bit register takes every `imm` for its operand. -/
theorem writesWord_of_setRegister {write : Word → State → State}
    (h : ∀ imm s, exec (mk imm) s = setRegister 32 imm s fun v => write v s) : WritesWord mk write :=
  fun s v => by
    obtain ⟨hvalue, -⟩ := writesOperand_of_setRegister h
    simpa only [BitVec.setWidth_eq] using hvalue s v

/-- Without an operand, any `imm` but 0 is out of range (30_encoding.md R88). -/
theorem withOperand_nonzero {imm : Word} {s : State} {run : BitVec 0 → Host.Outcome State Fault Refusal}
    (h : imm ≠ 0) : withOperand 0 imm s run = .next (s.deliver ⟨.operandOutOfRange, 0⟩) :=
  withOperand_wide (Nat.pos_of_ne_zero fun e => h (BitVec.eq_of_toNat_eq e))

/-- A command without an operand that responds with 0 writes what it does before the response. -/
theorem writesWithoutOperand_of_withOperand {write : State → State}
    (h : ∀ imm s, exec (mk imm) s = withOperand 0 imm s fun _ => respond 0 (write s)) :
    WritesWithoutOperand mk write :=
  ⟨fun s => (h 0 s).trans (withOperand_none s _), fun s imm hne => (h imm s).trans (withOperand_nonzero hne)⟩

/-- A command that is the getter of a register reads it: 64 bits hold the value (40_field_access.md R110). -/
theorem readsRegister_of_getRegister {reg : State → BitVec n}
    (h : ∀ imm s, exec (mk imm) s = getRegister imm s (reg s)) (hn : n ≤ 64 := by decide) :
    ReadsRegister mk fun s => (reg s).toNat :=
  ⟨fun s => ⟨(reg s).setWidth 64, BitVec.toNat_setWidth_of_le hn, (h 0 s).trans (withOperand_none s _)⟩,
    fun s imm hne => (h imm s).trans (withOperand_nonzero hne)⟩

end CommandShapes

/-! ### SET_OPTS -/

/-- For legal options lengths the derived header length fits its four bits (40_field_access.md R122). -/
theorem toNat_derivedLength {n : Nat} (h : n ≤ 40) : (derivedLength n).toNat = (20 + n + 3) >>> 2 := by
  rw [derivedLength, BitVec.toNat_ofNat]
  omega

/-- Options of a legal length are taken and the header length is derived from it (40_field_access.md R122). -/
theorem exec_setOpts_legal {v : BitVec 6} (s : State) (h : v.toNat ≤ 40) :
    exec (.setOpts (v.setWidth 32)) s =
      .next (((s.setLr { s.lr with optlen := v }).setHr
        { s.hr with hlw := derivedLength v.toNat }).deliver ⟨.ok, 0⟩) := by
  rw [exec, execSetOpts, withOperand_value (by decide), if_neg (Nat.not_lt.mpr h), respond]

/-- An operand of six bits above the longest options is refused (60_exceptions.md R245). -/
theorem exec_setOpts_tooLong {imm : Word} (s : State) (hlong : 40 < imm.toNat) (hfits : imm.toNat < 2 ^ 6) :
    exec (.setOpts imm) s = .next (s.deliver ⟨.optionsTooLong, 0⟩) := by
  have hvalue : (imm.setWidth 6).toNat = imm.toNat := by rw [BitVec.toNat_setWidth, Nat.mod_eq_of_lt hfits]
  rw [exec, execSetOpts, withOperand_fits hfits, hvalue, if_pos hlong, raise]

/-- An operand of more than six bits is out of range before it can be too long (60_exceptions.md R250). -/
theorem exec_setOpts_wide {imm : Word} (s : State) (hwide : 2 ^ 6 ≤ imm.toNat) :
    exec (.setOpts imm) s = .next (s.deliver ⟨.operandOutOfRange, 0⟩) := by
  rw [exec, execSetOpts, withOperand_wide hwide]

end Sys2Proof.Machine

section

open Sys2Proof Sys2Proof.Machine

/-- Settles O23: the derived length is the quotient rounded up, and the three ranges of `imm` have an answer each. -/
theorem setOptionsDerivesTheHeaderLength : Obligations.SetOptionsDerivesTheHeaderLength := by
  refine ⟨fun s n hn => ?_, fun s imm hlong hfits => exec_setOpts_tooLong s hlong (Nat.lt_succ_of_le hfits),
    fun s imm hwide => exec_setOpts_wide s hwide⟩
  have hlength := toNat_derivedLength hn
  exact ⟨derivedLength n.toNat, hlength, by omega, by omega, exec_setOpts_legal s hn⟩

/-- Settles O21: both are writers without an operand, and 0 is a value of the checksum's width. -/
theorem clearAndChecksumReset : Obligations.ClearAndChecksumReset :=
  ⟨writesWithoutOperand_of_withOperand fun _ _ => rfl, writesWithoutOperand_of_withOperand fun _ _ => rfl,
    fun _ => rfl⟩

/-- Settles O22: each meaning is the setter of its register. -/
theorem recordSettersWriteTheirRegister : Obligations.RecordSettersWriteTheirRegister :=
  ⟨writesOperand_of_setRegister fun _ _ => rfl, writesOperand_of_setRegister fun _ _ => rfl,
    writesWord_of_setRegister fun _ _ => rfl, writesWord_of_setRegister fun _ _ => rfl,
    writesOperand_of_setRegister fun _ _ => rfl, writesOperand_of_setRegister fun _ _ => rfl,
    writesOperand_of_setRegister fun _ _ => rfl, writesOperand_of_setRegister fun _ _ => rfl,
    writesOperand_of_setRegister fun _ _ => rfl⟩

/-- Settles O24: SET_PAY is a setter of the payload registers, CLR_PAY a writer without an operand. -/
theorem payloadIsAttachedAndDetached : Obligations.PayloadIsAttachedAndDetached :=
  ⟨writesOperand_of_setRegister fun _ _ => rfl, writesWithoutOperand_of_withOperand fun _ _ => rfl⟩

/-- Settles O25: each meaning is the getter of its register. -/
theorem recordGettersReadTheirRegister : Obligations.RecordGettersReadTheirRegister :=
  ⟨readsRegister_of_getRegister fun _ _ => rfl, readsRegister_of_getRegister fun _ _ => rfl,
    readsRegister_of_getRegister fun _ _ => rfl, readsRegister_of_getRegister fun _ _ => rfl,
    readsRegister_of_getRegister fun _ _ => rfl, readsRegister_of_getRegister fun _ _ => rfl,
    readsRegister_of_getRegister fun _ _ => rfl, readsRegister_of_getRegister fun _ _ => rfl,
    readsRegister_of_getRegister fun _ _ => rfl⟩

/-- Settles O26: each meaning is the getter of its register. -/
theorem lengthGettersReadTheirRegister : Obligations.LengthGettersReadTheirRegister :=
  ⟨readsRegister_of_getRegister fun _ _ => rfl, readsRegister_of_getRegister fun _ _ => rfl,
    readsRegister_of_getRegister fun _ _ => rfl, readsRegister_of_getRegister fun _ _ => rfl⟩

/-- Settles O27: each meaning is the setter of its register of the parent context. -/
theorem parentSettersWriteTheirRegister : Obligations.ParentSettersWriteTheirRegister :=
  ⟨writesWord_of_setRegister fun _ _ => rfl, writesWord_of_setRegister fun _ _ => rfl,
    writesOperand_of_setRegister fun _ _ => rfl, writesOperand_of_setRegister fun _ _ => rfl⟩

/-- Settles O28: each meaning is the getter of its register of the parent context. -/
theorem parentGettersReadTheirRegister : Obligations.ParentGettersReadTheirRegister :=
  ⟨readsRegister_of_getRegister fun _ _ => rfl, readsRegister_of_getRegister fun _ _ => rfl,
    readsRegister_of_getRegister fun _ _ => rfl, readsRegister_of_getRegister fun _ _ => rfl⟩

end

/-! PROOFS for 41_memory_access.md: what STB changes and leaves unchanged, at every address of every space; what STB
and LDB answer to an operand, an address and a selector out of range. -/

namespace Sys2Proof.Machine

open Sys2Proof.Claims

/-! ### The frame of a store -/

/-- A store and the response after it change no register (41_memory_access.md R161). -/
theorem sameRegisters_store_deliver (s : State) (sp : Space) (a : Nat) (bs : List Byte) (r : Response) :
    SameRegisters s ((s.store sp a bs).deliver r) :=
  ⟨s.store_hr sp a bs, s.store_lr sp a bs, s.store_parent sp a bs, s.store_program sp a bs, s.store_params sp a bs,
    s.store_draws sp a bs⟩

/-- A byte outside the one stored is as it was before, in every space (41_memory_access.md R161). -/
theorem State.readByte_store_deliver_outside (s : State) {sp sp' : Space} {a x : Nat} (b : Byte) (r : Response)
    (h : sp' ≠ sp ∨ x ≠ a) : ((s.store sp a [b]).deliver r).readByte sp' x = s.readByte sp' x := by
  have hout : sp' ≠ sp ∨ x < a ∨ a + [b].length ≤ x := h.imp_right Nat.lt_or_gt_of_ne
  exact (readByte_deliver rfl r x).trans (State.readByte_store_outside s sp sp' a x [b] hout)

/-! ### What is out of range -/

/-- An address outside the space ends the access before it begins (60_exceptions.md R251). -/
theorem withAddress_outside {sp : Space} {a : Half} {s : State} {run : Nat → Host.Outcome State Fault Refusal}
    (h : sp.size ≤ a.toNat) : withAddress sp a s run = .next (s.deliver ⟨.addressOutOfRange, 0⟩) := by
  rw [withAddress, if_neg (Nat.not_lt.mpr h), raise]

/-- STB of a byte outside the space stores nothing. -/
theorem exec_stb_outside {sp : Space} {a : Half} (b : Byte) (s : State) (h : sp.size ≤ a.toNat) :
    exec (.stb sp a (b.setWidth 32)) s = .next (s.deliver ⟨.addressOutOfRange, 0⟩) := by
  rw [exec, execStb, withOperand_value (by decide), withAddress_outside h]

/-- STB of more than a byte is refused at any address (60_exceptions.md R250). -/
theorem exec_stb_wide {imm : Word} (sp : Space) (a : Half) (s : State) (h : 2 ^ 8 ≤ imm.toNat) :
    exec (.stb sp a imm) s = .next (s.deliver ⟨.operandOutOfRange, 0⟩) := by
  rw [exec, execStb, withOperand_wide h]

/-- A load outside its space responds with AddressOutOfRange. -/
theorem State.loadResponse_outside {sp : Space} {a : Half} (s : State) (h : sp.size ≤ a.toNat) :
    s.loadResponse sp a = ⟨.addressOutOfRange, 0⟩ := if_neg (Nat.not_lt.mpr h)

/-- LDB takes no operand, so any `imm` but 0 is refused at any address (60_exceptions.md R250). -/
theorem exec_ldb_nonzero {imm : Word} (sp : Space) (a : Half) (s : State) (h : imm ≠ 0) :
    exec (.ldb sp a imm) s = .next (s.deliver ⟨.operandOutOfRange, 0⟩) := by
  rw [exec, execLdb, withOperand_nonzero h]

/-- In the word of STB or LDB a selector above 2 is a reserved space (30_encoding.md R96). -/
theorem illegalFields_of_reservedSpace {op sp : BitVec 8} (a : Half) (hop : op.toNat ∈ [0x40, 0x41])
    (hsp : 2 < sp.toNat) : illegalFields op sp a :=
  .inr (.inl ⟨hop, hsp⟩)

end Sys2Proof.Machine

section

open Sys2Proof Sys2Proof.Machine

/-- Settles O29: STB inside its space is one store and a response, and a store is read back at its own address only. -/
theorem storeByteWritesThatByteOnly : Obligations.StoreByteWritesThatByteOnly := by
  refine ⟨fun s sp a b hopt => ?_, fun s sp a imm hwide => exec_stb_wide sp a s hwide,
    fun s a b hout => exec_stb_outside b s hout, fun s sp a imm hsp hc => ?_⟩
  · exact ⟨_, exec_stb_inside b s (Space.lt_size hopt), s.readByte_store_deliver_same sp a.toNat b _,
      fun sp' x hother => s.readByte_store_deliver_outside b _ hother, sameRegisters_store_deliver s sp a.toNat [b] _,
      congrArg (· + 1) (s.store_pc sp a.toNat [b]), congrArg (· ++ _) (s.store_responses sp a.toNat [b])⟩
  · exact illegalWordsAnswerIllegalCommand s 0x40 sp a imm hc (illegalFields_of_reservedSpace a (by decide) hsp)

/-- Settles O30: LDB without an operand delivers its response only, which inside the space is the byte: 64 bits hold
it. -/
theorem loadByteReadsThatByte : Obligations.LoadByteReadsThatByte := by
  refine ⟨fun s sp a hopt => ⟨(s.readByte sp a.toNat).setWidth 64, BitVec.toNat_setWidth_of_le (by decide), ?_⟩,
    fun s sp a imm hne => exec_ldb_nonzero sp a s hne, fun s a hout => ?_, fun s sp a imm hsp hc => ?_⟩
  · rw [exec_ldb, s.loadResponse_inside (Space.lt_size hopt)]
    rfl
  · rw [exec_ldb, s.loadResponse_outside (sp := .opt) hout]
    rfl
  · exact illegalWordsAnswerIllegalCommand s 0x41 sp a imm hc (illegalFields_of_reservedSpace a (by decide) hsp)

end

/-! PROOFS for 42_encode.md: the lengths of the statements are those of ENCODE; what ENCODE answers, said once; the
bytes it emits are the layout of the table, region by region; the state it leaves; when two states lay out the same. -/

namespace Sys2Proof.Machine

open Sys2Proof.Claims

/-! ### The lengths -/

/-- The nibble holds the effective header length (42_encode.md R171). -/
theorem toNat_effectiveLength (s : State) : (effectiveLength s.hr.hlw).toNat = headerLength s := by
  have hzero : s.hr.hlw = 0 ↔ s.hr.hlw.toNat = 0 := BitVec.toNat_inj.symm
  simp only [effectiveLength, headerLength, hzero]
  split <;> rfl

theorem effectiveLength_eq_ofNat (s : State) : effectiveLength s.hr.hlw = BitVec.ofNat 4 (headerLength s) := by
  rw [← toNat_effectiveLength, BitVec.ofNat_toNat, BitVec.setWidth_eq]

/-- A length that is set is the effective one, so the effective length written back is kept. -/
theorem effectiveLength_idem (h : BitVec 4) : effectiveLength (effectiveLength h) = effectiveLength h := by
  revert h
  decide

theorem State.payloadLength_eq (s : State) : s.payloadLength = Claims.payloadLength s := by
  have hone : s.lr.payvalid = 1 ↔ s.lr.payvalid.toNat = 1 := BitVec.toNat_inj.symm
  simp only [State.payloadLength, Claims.payloadLength, hone]

theorem State.totalLength_effectiveLength (s : State) :
    s.totalLength (effectiveLength s.hr.hlw) = Claims.totalLength s := by
  rw [State.totalLength, Claims.totalLength, toNat_effectiveLength, State.payloadLength_eq]

theorem layoutBroken_iff_badLayout (s : State) :
    layoutBroken (effectiveLength s.hr.hlw) s.lr.optlen = true ↔ badLayout s := by
  rw [layoutBroken_iff, toNat_effectiveLength, badLayout]

/-- A layout that is not refused has the five words of a base header, and room for the options it emits. -/
theorem not_badLayout_iff (s : State) :
    ¬ badLayout s ↔ 5 ≤ headerLength s ∧ (5 < headerLength s → 20 + s.lr.optlen.toNat ≤ 4 * headerLength s) := by
  rw [badLayout]
  omega

theorem twenty_le_totalLength {s : State} (hs : ¬ badLayout s) : 20 ≤ Claims.totalLength s := by
  obtain ⟨h5, -⟩ := (not_badLayout_iff s).mp hs
  rw [Claims.totalLength]
  omega

/-! ### What ENCODE answers -/

/-- The state a successful ENCODE leaves, its response delivered (42_encode.md R180). -/
def State.afterEncode (s : State) : State :=
  (s.encoded (effectiveLength s.hr.hlw)).deliver ⟨.ok, BitVec.ofNat 64 (Claims.totalLength s)⟩

/-- The three answers of ENCODE without an operand (42_encode.md R170). -/
theorem exec_encode_zero (s : State) :
    exec (.encode 0) s =
      if layoutBroken (effectiveLength s.hr.hlw) s.lr.optlen then raise .layoutInvariant s
      else if 65535 < Claims.totalLength s then raise .lengthOverflow s
      else .next s.afterEncode := by
  rw [State.afterEncode, ← State.totalLength_effectiveLength]
  rfl

/-- A layout the nibble cannot carry is refused (42_encode.md R172). -/
theorem exec_encode_badLayout {s : State} (hb : badLayout s) :
    exec (.encode 0) s = .next (s.deliver ⟨.layoutInvariant, 0⟩) := by
  rw [exec_encode_zero, if_pos ((layoutBroken_iff_badLayout s).mpr hb), raise]

/-- A total length that does not fit is refused (42_encode.md R174). -/
theorem exec_encode_tooLong {s : State} (hb : ¬ badLayout s) (ht : 65535 < Claims.totalLength s) :
    exec (.encode 0) s = .next (s.deliver ⟨.lengthOverflow, 0⟩) := by
  rw [exec_encode_zero, if_neg (mt (layoutBroken_iff_badLayout s).mp hb), if_pos ht, raise]

/-- An encodable record is encoded. -/
theorem exec_encode_encodable {s : State} (hs : encodable s) : exec (.encode 0) s = .next s.afterEncode := by
  obtain ⟨hb, ht⟩ := hs
  rw [exec_encode_zero, if_neg (mt (layoutBroken_iff_badLayout s).mp hb), if_neg (Nat.not_lt.mpr ht)]

/-- ENCODE that does not succeed only responds: with an operand, with a bad layout, or with too long a total. -/
theorem exec_encode_refused {s : State} {imm : Word} (h : ¬ (encodable s ∧ imm = 0)) :
    ∃ st, exec (.encode imm) s = .next (s.deliver ⟨st, 0⟩) := by
  by_cases himm : imm = 0
  · subst himm
    by_cases hb : badLayout s
    · exact ⟨_, exec_encode_badLayout hb⟩
    · exact ⟨_, exec_encode_tooLong hb (Nat.lt_of_not_le fun ht => h ⟨⟨hb, ht⟩, rfl⟩)⟩
  · exact ⟨_, by rw [exec, execEncode, withOperand_nonzero himm]⟩

/-! ### The bytes on the wire -/

/-- The flags/length word has the length in its upper four bits and the flags in its lower nine (30_encoding.md R82). -/
theorem toNat_packFlagsLength (flags : BitVec 9) (h : BitVec 4) :
    (packFlagsLength flags h).toNat = h.toNat * 2 ^ 12 + flags.toNat := by
  have hflags := flags.isLt
  have hlength := h.isLt
  rw [packFlagsLength, BitVec.or_comm, BitVec.toNat_or, BitVec.toNat_shiftLeft, BitVec.toNat_setWidth_of_le (by decide),
    BitVec.toNat_setWidth_of_le (by decide), Nat.mod_eq_of_lt (by rw [Nat.shiftLeft_eq]; omega),
    ← Nat.shiftLeft_add_eq_or_of_lt (by omega), Nat.shiftLeft_eq]

/-- The flags/length word as bytes: the nibble, three bits 0 and the highest flag; the other flags
(30_encoding.md R82). -/
theorem be16_packFlagsLength (flags : BitVec 9) (h : BitVec 4) :
    be16 (packFlagsLength flags h) = [h ++ 0#3 ++ flags.extractLsb' 8 1, flags.extractLsb' 0 8] := by
  have hflags := flags.isLt
  have hbit : (flags.extractLsb' 8 1).toNat < 2 ^ 1 := (flags.extractLsb' 8 1).isLt
  have hhigh : (packFlagsLength flags h).extractLsb' 8 8 = h ++ 0#3 ++ flags.extractLsb' 8 1 := by
    apply BitVec.eq_of_toNat_eq
    rw [BitVec.toNat_append, ← Nat.shiftLeft_add_eq_or_of_lt hbit]
    simp only [BitVec.toNat_append, BitVec.extractLsb'_toNat, toNat_packFlagsLength, Nat.shiftLeft_eq,
      Nat.shiftRight_eq_div_pow, BitVec.toNat_ofNat, Nat.zero_mod, Nat.or_zero]
    omega
  have hlow : (packFlagsLength flags h).extractLsb' 0 8 = flags.extractLsb' 0 8 := by
    apply BitVec.eq_of_toNat_eq
    simp only [BitVec.extractLsb'_toNat, toNat_packFlagsLength, Nat.shiftRight_zero]
    omega
  rw [be16, hhigh, hlow]

/-- The first 20 bytes of the layout are the base bytes, the checksum field given. -/
theorem map_layoutByte_base (s : State) (c : Half) :
    (List.range 20).map (layoutByte s c) = baseBytes { s.hr with csum := c } (effectiveLength s.hr.hlw) := by
  rw [baseBytes, be16_packFlagsLength, effectiveLength_eq_ofNat]
  rfl

/-- Beyond the base bytes: an option below `LR.OPTLEN`, padding up to `4*h`, then the payload. -/
theorem layoutByte_of_ge (s : State) (c : Half) {k : Nat} (hk : 20 ≤ k) :
    layoutByte s c k =
      if k < 4 * headerLength s then
        if k < 20 + s.lr.optlen.toNat then s.readByte .opt (k - 20) else 0
      else s.readByte .pay (k - 4 * headerLength s) := by
  obtain ⟨j, rfl⟩ := Nat.exists_eq_add_of_le' hk
  rfl

theorem State.readBytes_eq_map (s : State) (sp : Space) (a n : Nat) :
    s.readBytes sp a n = (List.range n).map fun k => s.readByte sp (a + k) :=
  List.ext_getElem (by simp) fun k _ _ => by simp

/-- Between the base bytes and `4*h` stand the options and their padding. -/
theorem map_layoutByte_options (s : State) (c : Half) (hs : ¬ badLayout s) :
    (List.range (4 * headerLength s - 20)).map (fun j => layoutByte s c (20 + j)) =
      s.optionBytes (effectiveLength s.hr.hlw) := by
  obtain ⟨h5, hopt⟩ := (not_badLayout_iff s).mp hs
  rw [State.optionBytes, optionsRegion, toNat_effectiveLength]
  split
  · next hlong =>
    obtain ⟨pad, hpad⟩ := Nat.exists_eq_add_of_le (hopt hlong)
    have hregion : 4 * headerLength s - 20 = s.lr.optlen.toNat + pad := by omega
    rw [hregion, List.range_add, List.map_append, State.readBytes_eq_map, Nat.add_sub_cancel_left]
    congr 1
    · refine List.map_congr_left fun j hj => ?_
      have hj : j < s.lr.optlen.toNat := List.mem_range.mp hj
      rw [layoutByte_of_ge s c (by omega), if_pos (by omega), if_pos (by omega), Nat.add_sub_cancel_left, Nat.zero_add]
    · rw [List.map_map]
      refine List.eq_replicate_iff.mpr ⟨by simp, ?_⟩
      simp only [List.mem_map, List.mem_range, Function.comp_apply]
      rintro _ ⟨j, hj, rfl⟩
      rw [layoutByte_of_ge s c (by omega), if_pos (by omega), if_neg (by omega)]
  · next hshort =>
    have hfive : headerLength s = 5 := Nat.le_antisymm (Nat.le_of_not_lt hshort) h5
    rw [hfive]
    rfl

/-- From `4*h` on stands the payload. -/
theorem map_layoutByte_payload (s : State) (c : Half) (hs : ¬ badLayout s) :
    (List.range s.payloadLength).map (fun j => layoutByte s c (4 * headerLength s + j)) =
      s.readBytes .pay 0 s.payloadLength := by
  obtain ⟨h5, -⟩ := (not_badLayout_iff s).mp hs
  rw [State.readBytes_eq_map]
  refine List.map_congr_left fun j _ => ?_
  rw [layoutByte_of_ge s c (by omega), if_neg (by omega), Nat.add_sub_cancel_left, Nat.zero_add]

@[simp] theorem length_layoutBytes (s : State) (c : Half) : (layoutBytes s c).length = Claims.totalLength s := by
  rw [layoutBytes, List.length_map, List.length_range]

@[simp] theorem getElem_layoutBytes (s : State) (c : Half) {k : Nat} (hk : k < (layoutBytes s c).length) :
    (layoutBytes s c)[k] = layoutByte s c k := by
  simp [layoutBytes]

/-- The layout is the base bytes, the options region and the payload (42_encode.md R175). -/
theorem layoutBytes_eq {s : State} (hs : ¬ badLayout s) (c : Half) :
    layoutBytes s c =
      baseBytes { s.hr with csum := c } (effectiveLength s.hr.hlw) ++ s.optionBytes (effectiveLength s.hr.hlw) ++
        s.readBytes .pay 0 s.payloadLength := by
  obtain ⟨h5, -⟩ := (not_badLayout_iff s).mp hs
  have htotal : Claims.totalLength s = 20 + (4 * headerLength s - 20) + s.payloadLength := by
    rw [Claims.totalLength, State.payloadLength_eq]
    omega
  rw [layoutBytes, htotal, List.range_add, List.range_add, List.map_append, List.map_append, List.map_map, List.map_map,
    map_layoutByte_base, ← map_layoutByte_options s c hs, ← map_layoutByte_payload s c hs]
  have hheader : 20 + (4 * headerLength s - 20) = 4 * headerLength s := by omega
  rw [hheader]
  rfl

/-- What ENCODE assembles is the layout with the checksum field as stored (42_encode.md R175). -/
theorem State.assembled_eq_layoutBytes {s : State} (hs : ¬ badLayout s) :
    s.assembled (effectiveLength s.hr.hlw) = layoutBytes s s.hr.csum :=
  (layoutBytes_eq hs _).symm

/-- Filling in the checksum is laying out with it (42_encode.md R178). -/
theorem patchChecksum_layoutBytes {s : State} (hs : ¬ badLayout s) (c c' : Half) :
    patchChecksum (layoutBytes s c) c' = layoutBytes s c' := by
  rw [layoutBytes_eq hs, layoutBytes_eq hs]
  rfl

/-! ### The checksum field and the parent -/

theorem State.writeBackProtocol_parent_eq (s : State) : s.writeBackProtocol.parent = parentAfter s := by
  have hone : s.parent.valid = 1 ↔ s.parent.valid.toNat = 1 := BitVec.toNat_inj.symm
  simp only [State.writeBackProtocol_parent, parentAfter, hone]

theorem wireChecksum_computed {s : State} (h : s.hr.csum = 0) :
    wireChecksum s = checksum (parentAfter s) (layoutBytes s 0) := by
  rw [wireChecksum, h]
  rfl

theorem wireChecksum_supplied {s : State} (h : s.hr.csum ≠ 0) : wireChecksum s = s.hr.csum :=
  if_neg fun hzero => h (BitVec.eq_of_toNat_eq hzero)

/-- The checksum field emitted is the one on the wire (42_encode.md R177 to R179). -/
theorem State.emittedChecksum_eq {s : State} (hs : ¬ badLayout s) :
    s.emittedChecksum (effectiveLength s.hr.hlw) = wireChecksum s := by
  rw [State.emittedChecksum, State.assembled_eq_layoutBytes hs, State.writeBackProtocol_parent_eq]
  split
  · next h => rw [wireChecksum_computed h, h]
  · next h => rw [wireChecksum_supplied h]

/-- ENCODE emits the layout with the checksum field of the wire. -/
theorem State.encodedBytes_eq {s : State} (hs : ¬ badLayout s) :
    s.encodedBytes (effectiveLength s.hr.hlw) = layoutBytes s (wireChecksum s) := by
  rw [State.encodedBytes, State.assembled_eq_layoutBytes hs, State.emittedChecksum_eq hs, patchChecksum_layoutBytes hs]
  split
  · rfl
  · next h => rw [wireChecksum_supplied h]

theorem extractLsb'_append_halves (c : Half) : (c.extractLsb' 8 8 ++ c.extractLsb' 0 8 : Half) = c :=
  (BitVec.extractLsb'_append_extractLsb'_eq_extractLsb' (start₁ := 0) (len₁ := 8) rfl).trans BitVec.extractLsb'_eq_self

/-! ### The state a successful ENCODE leaves -/

section AfterEncode

variable {s : State}

theorem State.afterEncode_parent (s : State) : s.afterEncode.parent = parentAfter s := by
  rw [State.afterEncode, State.deliver_parent, State.encoded_parent, ← State.writeBackProtocol_parent,
    State.writeBackProtocol_parent_eq]

theorem State.afterEncode_hr (hs : ¬ badLayout s) :
    s.afterEncode.hr =
      if s.params.encWriteback then
        { s.hr with hlw := BitVec.ofNat 4 (headerLength s), csum := wireChecksum s }
      else s.hr := by
  rw [State.afterEncode, State.deliver_hr, State.encoded_hr, State.emittedChecksum_eq hs, effectiveLength_eq_ofNat]

theorem State.afterEncode_lr (s : State) :
    s.afterEncode.lr = { s.lr with wlen := BitVec.ofNat 16 (Claims.totalLength s) } := by
  rw [State.afterEncode, State.deliver_lr, State.encoded_lr, State.totalLength_effectiveLength]

/-- On the wire stand the bytes of the layout, and beyond them what stood there. -/
theorem State.readByte_wire_afterEncode (hs : ¬ badLayout s) (k : Nat) :
    s.afterEncode.readByte .wire k =
      if k < Claims.totalLength s then layoutByte s (wireChecksum s) k else s.readByte .wire k := by
  have hwire : s.afterEncode.mem .wire = (s.store .wire 0 (layoutBytes s (wireChecksum s))).mem .wire := by
    rw [← State.encodedBytes_eq hs]
    exact s.encoded_wire _
  rw [State.readByte_congr hwire, ← length_layoutBytes s (wireChecksum s)]
  split
  · next hk =>
    have hread := s.readByte_store_inside .wire 0 k _ hk
    rwa [Nat.zero_add, getElem_layoutBytes] at hread
  · next hk => exact s.readByte_store_outside .wire .wire 0 k _ (.inr (.inr (by omega)))

theorem State.readByte_opt_afterEncode (s : State) (a : Nat) : s.afterEncode.readByte .opt a = s.readByte .opt a :=
  readByte_deliver (sp := .opt) (s.encoded_opt _) _ a

theorem State.readByte_pay_afterEncode (s : State) (a : Nat) : s.afterEncode.readByte .pay a = s.readByte .pay a :=
  readByte_deliver (sp := .pay) (s.encoded_pay _) _ a

/-- A second write-back changes nothing. -/
theorem parentAfter_afterEncode (s : State) : parentAfter s.afterEncode = parentAfter s := by
  have hparams : s.afterEncode.params = s.params := s.encoded_params _
  rw [parentAfter, s.afterEncode_parent, hparams, parentAfter]
  split <;> rfl

/-- The checksum field stored after ENCODE: what it was, or with ENC_WRITEBACK the one emitted (42_encode.md R181). -/
theorem csum_afterEncode (hs : ¬ badLayout s) :
    s.afterEncode.hr.csum = s.hr.csum ∨ s.afterEncode.hr.csum = wireChecksum s := by
  rw [State.afterEncode_hr hs]
  split
  · exact .inr rfl
  · exact .inl rfl

end AfterEncode

/-! ### Two states that lay out the same -/

/-- The registers and bytes ENCODE reads for the layout, but for the checksum field, are the same in both states: the
effective length, the other record registers, the options and the payload (42_encode.md R183). -/
structure SameLayout (s s' : State) : Prop where
  length : effectiveLength s'.hr.hlw = effectiveLength s.hr.hlw
  record : { s'.hr with hlw := s.hr.hlw, csum := s.hr.csum } = s.hr
  optlen : s'.lr.optlen = s.lr.optlen
  plen : s'.payloadLength = s.payloadLength
  opt : ∀ a, a < s.lr.optlen.toNat → s'.readByte .opt a = s.readByte .opt a
  pay : ∀ a, a < s.payloadLength → s'.readByte .pay a = s.readByte .pay a

namespace SameLayout

variable {s s' : State} (h : SameLayout s s')

include h

theorem headerLength_eq : headerLength s' = headerLength s := by
  rw [← toNat_effectiveLength, ← toNat_effectiveLength, h.length]

theorem totalLength_eq : Claims.totalLength s' = Claims.totalLength s := by
  rw [Claims.totalLength, Claims.totalLength, h.headerLength_eq, ← State.payloadLength_eq, ← State.payloadLength_eq,
    h.plen]

theorem badLayout_iff : badLayout s' ↔ badLayout s := by
  rw [badLayout, badLayout, h.headerLength_eq, h.optlen]

theorem encodable_iff : encodable s' ↔ encodable s := by
  rw [encodable, encodable, h.badLayout_iff, h.totalLength_eq]

theorem baseBytes_eq (c : Half) (n : BitVec 4) :
    baseBytes { s'.hr with csum := c } n = baseBytes { s.hr with csum := c } n := by
  -- the nibble is an argument of its own: `baseBytes` does not read `HR.HLW`
  have heq := congrArg (fun r : HeaderRecord => baseBytes { r with csum := c } n) h.record
  exact heq

theorem optionBytes_eq (n : BitVec 4) : s'.optionBytes n = s.optionBytes n := by
  have hread : s'.readBytes .opt 0 s.lr.optlen.toNat = s.readBytes .opt 0 s.lr.optlen.toNat :=
    State.readBytes_congr fun k hk => h.opt _ (by omega)
  rw [State.optionBytes, State.optionBytes, h.optlen, hread]

theorem payloadBytes_eq : s'.readBytes .pay 0 s'.payloadLength = s.readBytes .pay 0 s.payloadLength := by
  rw [h.plen]
  exact State.readBytes_congr fun k hk => h.pay _ (by omega)

theorem layoutBytes_eq (hs : ¬ badLayout s) (c : Half) : layoutBytes s' c = layoutBytes s c := by
  rw [Machine.layoutBytes_eq hs, Machine.layoutBytes_eq (mt h.badLayout_iff.mp hs), h.length, h.baseBytes_eq,
    h.optionBytes_eq, h.payloadBytes_eq]

/-- Every byte of the layout is the same. -/
theorem layoutByte_eq (hs : ¬ badLayout s) (c : Half) {k : Nat} (hk : k < Claims.totalLength s) :
    layoutByte s' c k = layoutByte s c k := by
  have hmap := h.layoutBytes_eq hs c
  rw [layoutBytes, layoutBytes, h.totalLength_eq] at hmap
  exact List.map_inj_left.mp hmap k (List.mem_range.mpr hk)

/-- The checksum field on the wire is the same where the field stored is, and where the stored field is the one that
went on the wire: supplied it is taken, and 0 it is computed again, which gives 0 (42_encode.md R181). -/
theorem wireChecksum_eq (hs : ¬ badLayout s) (hparent : parentAfter s' = parentAfter s)
    (hcsum : s'.hr.csum = s.hr.csum ∨ s'.hr.csum = wireChecksum s) : wireChecksum s' = wireChecksum s := by
  by_cases hzero : s'.hr.csum = 0
  · have hcomputed : s.hr.csum = 0 := by
      by_contra hsupplied
      rw [wireChecksum_supplied hsupplied, or_self] at hcsum
      exact hsupplied (hcsum.symm.trans hzero)
    rw [wireChecksum_computed hzero, wireChecksum_computed hcomputed, hparent, h.layoutBytes_eq hs]
  · rw [wireChecksum_supplied hzero]
    rcases hcsum with hsame | hwire
    · rw [hsame] at hzero ⊢
      exact (wireChecksum_supplied hzero).symm
    · exact hwire

end SameLayout

/-- A successful ENCODE leaves the layout as it was, whether or not it writes to the record. -/
theorem sameLayout_afterEncode {s : State} (hs : ¬ badLayout s) : SameLayout s s.afterEncode where
  length := by
    rw [State.afterEncode_hr hs, ← effectiveLength_eq_ofNat]
    split
    · exact effectiveLength_idem _
    · rfl
  record := by
    rw [State.afterEncode_hr hs]
    split <;> rfl
  optlen := by rw [State.afterEncode_lr]
  plen := by rw [State.payloadLength, State.payloadLength, State.afterEncode_lr]
  opt a _ := s.readByte_opt_afterEncode a
  pay a _ := s.readByte_pay_afterEncode a

end Sys2Proof.Machine

section

open Sys2Proof Sys2Proof.Machine Sys2Proof.Claims

/-- Settles O32, field by field of the state a successful ENCODE leaves. -/
theorem encodeWritesTheLayout : Obligations.EncodeWritesTheLayout := by
  intro s hs
  obtain ⟨hb, ht⟩ := hs
  have hwire := State.readByte_wire_afterEncode hb
  have hlr := s.afterEncode_lr
  have hwlen : s.afterEncode.lr.wlen.toNat = totalLength s := by
    rw [hlr, BitVec.toNat_ofNat]
    exact Nat.mod_eq_of_lt (Nat.lt_succ_of_le ht)
  exact ⟨_, exec_encode_encodable ⟨hb, ht⟩, fun k hk => by rw [hwire, if_pos hk],
    fun k hk => by rw [hwire, if_neg (Nat.not_lt.mpr hk)], s.readByte_opt_afterEncode, s.readByte_pay_afterEncode,
    hwlen, congrArg (· ++ _) (s.encoded_responses _), s.afterEncode_parent, State.afterEncode_hr hb, by rw [hlr],
    by rw [hlr], by rw [hlr], congrArg (· + 1) (s.encoded_pc _), s.encoded_program _, s.encoded_params _,
    s.encoded_draws _⟩

/-- Settles O33: both are answers of ENCODE that only respond. -/
theorem encodeRefusesBadLayouts : Obligations.EncodeRefusesBadLayouts :=
  fun _ => ⟨exec_encode_badLayout, exec_encode_tooLong⟩

/-- Settles O34: the parent of the state a successful ENCODE leaves, which is also the one summed; every other answer
only responds. -/
theorem encodeInformsTheParent : Obligations.EncodeInformsTheParent := by
  refine ⟨fun s t imm ht => ⟨fun hs himm hvalid => ?_, fun hrefused => ?_⟩, fun s t hs hcsum ht => ?_⟩
  · subst himm
    cases (exec_encode_encodable hs).symm.trans ht
    rw [s.afterEncode_parent, parentAfter, if_pos hvalid]
  · by_cases hok : encodable s ∧ imm = 0
    · obtain ⟨hs, rfl⟩ := hok
      have hvalid : s.parent.valid.toNat = 0 := by simpa [hs] using hrefused
      cases (exec_encode_encodable hs).symm.trans ht
      rw [s.afterEncode_parent, parentAfter, if_neg (by omega)]
    · obtain ⟨st, hst⟩ := exec_encode_refused hok
      cases hst.symm.trans ht
      rfl
  · have h20 := twenty_le_totalLength hs.1
    cases (exec_encode_encodable hs).symm.trans ht
    have hwire := State.readByte_wire_afterEncode hs.1
    rw [s.afterEncode_parent, hwire, hwire, if_pos (by omega), if_pos (by omega), ← wireChecksum_computed hcsum]
    exact extractLsb'_append_halves _

/-- Settles O35: the register map lists none of these for ENCODE. -/
theorem encodeNeverChangesTheRest : Obligations.EncodeNeverChangesTheRest := by
  intro s t imm ht
  obtain ⟨hreg, hmem⟩ := onlyListedCommandsWrite (.encode imm) s t ht
  have heq {n : Nat} {x y : BitVec n} : x.toNat = y.toNat → x = y := BitVec.eq_of_toNat_eq
  exact ⟨heq (hreg .sport rfl), heq (hreg .dport rfl), heq (hreg .seq rfl), heq (hreg .ack rfl), heq (hreg .flags rfl),
    heq (hreg .win rfl), heq (hreg .urg rfl), heq (hreg .optlen rfl), heq (hreg .payvalid rfl), heq (hreg .paylen rfl),
    heq (hreg .pvalid rfl), heq (hreg .psrc rfl), heq (hreg .pdst rfl), hmem .opt rfl, hmem .pay rfl⟩

/-- Settles O36: both states lay out the same and have the same checksum field and parent, and what ENCODE leaves is a
function of these. -/
theorem encodeDependsOnWhatItReadsOnly : Obligations.EncodeDependsOnWhatItReadsOnly := by
  intro s s' hs hhr hoptlen hvalid hpaylen hparent hparams hopt hpay
  have hlayout : SameLayout s s' :=
    { length := by rw [hhr]
      record := by rw [hhr]
      optlen := hoptlen
      plen := by rw [State.payloadLength, State.payloadLength, hvalid, hpaylen]
      opt := hopt
      pay := State.payloadLength_eq s ▸ hpay }
  have hafter : parentAfter s' = parentAfter s := by rw [parentAfter, parentAfter, hparent, hparams]
  have hchecksum := hlayout.wireChecksum_eq hs.1 hafter (.inl (by rw [hhr]))
  obtain ⟨t, ht, hwire, -, -, -, hwlen, hresp, htparent, hthr, -⟩ := encodeWritesTheLayout s hs
  obtain ⟨t', ht', hwire', -, -, -, hwlen', hresp', htparent', hthr', -⟩ :=
    encodeWritesTheLayout s' (hlayout.encodable_iff.mpr hs)
  rw [hlayout.totalLength_eq] at hwire' hwlen' hresp'
  refine ⟨t, t', ht, ht', fun k hk => ?_, BitVec.eq_of_toNat_eq (hwlen'.trans hwlen.symm), ?_, ?_, _, hresp, hresp'⟩
  · rw [hwire k hk, hwire' k hk, hchecksum, hlayout.layoutByte_eq hs.1 _ hk]
  · rw [hthr, hthr', hparams, hhr, hlayout.headerLength_eq, hchecksum]
  · rw [htparent, htparent', hafter]

/-- Settles O37: ENCODE leaves a state that lays out the same and has the same checksum field on the wire. -/
theorem encodeTwiceGivesTheSameBytes : Obligations.EncodeTwiceGivesTheSameBytes := by
  intro s t hs ht
  cases (exec_encode_encodable hs).symm.trans ht
  have hlayout := sameLayout_afterEncode hs.1
  have hchecksum := hlayout.wireChecksum_eq hs.1 (parentAfter_afterEncode s) (csum_afterEncode hs.1)
  have hs' := hlayout.encodable_iff.mpr hs
  rw [State.afterEncode_hr hs.1]
  refine ⟨fun hoff => by rw [hoff]; rfl, fun hon => by rw [hon]; rfl, _, exec_encode_encodable hs', ?_, fun k => ?_⟩
  · rw [State.afterEncode_lr, State.afterEncode_lr, hlayout.totalLength_eq]
  · rw [State.readByte_wire_afterEncode hs'.1, hlayout.totalLength_eq, hchecksum]
    split
    · next hk => rw [State.readByte_wire_afterEncode hs.1, if_pos hk, hlayout.layoutByte_eq hs.1 _ hk]
    · rfl

/-- Settles O38, by running ENCODE on the two states. -/
theorem literalCaseEncodes : Obligations.LiteralCaseEncodes :=
  ⟨⟨_, rfl, rfl, rfl⟩, ⟨_, rfl, rfl, rfl⟩⟩

end

/-! PROOFS for 43_checksum.md: the folded sum is the one number that fits 16 bits, has the residue of the sum modulo
0xFFFF and is 0 with it only; the words that are summed and their bound; a checksum stored in its own field; CKSUM. -/

namespace Sys2Proof.Machine

open Sys2Proof.Claims

/-! ### The fold -/

theorem foldCarries_lt (acc : Nat) : foldCarries acc < 2 ^ 16 := (foldCarries_spec acc).1

theorem foldCarries_mod (acc : Nat) : foldCarries acc % 65535 = acc % 65535 := (foldCarries_spec acc).2.1

/-- The folded sum is 0 only when the sum is (43_checksum.md R195). -/
theorem foldCarries_pos_iff (acc : Nat) : 0 < foldCarries acc ↔ 0 < acc := by
  refine ⟨fun h => Nat.pos_of_ne_zero ?_, (foldCarries_spec acc).2.2⟩
  rintro rfl
  exact absurd h (by decide)

/-- The folded sum is the one number that fits 16 bits, has the residue of the sum and is 0 just where the sum is. -/
theorem foldCarries_unique {acc n : Nat} (hn : n < 2 ^ 16) (hmod : n % 65535 = acc % 65535)
    (hpos : 0 < n ↔ 0 < acc) : foldCarries acc = n := by
  have hlt := foldCarries_lt acc
  have hmod' := foldCarries_mod acc
  have hpos' := foldCarries_pos_iff acc
  omega

/-- Two passes fit any 32-bit sum into 16 bits (43_checksum.md R194). -/
theorem foldPass_foldPass_lt {acc : Nat} (h : acc < 2 ^ 32) : foldPass (foldPass acc) < 2 ^ 16 := by
  simp only [foldPass, Nat.shiftRight_eq_div_pow]
  omega

theorem foldPass_pos_iff (acc : Nat) : 0 < foldPass acc ↔ 0 < acc := by
  refine ⟨fun h => Nat.pos_of_ne_zero ?_, foldPass_pos⟩
  rintro rfl
  exact absurd h (by decide)

/-- The complement of the folded sum (43_checksum.md R195). -/
theorem toNat_checksum (p : ParentContext) (bs : List Byte) :
    (checksum p bs).toNat = 0xFFFF - foldCarries (checksumAcc p bs) := by
  rw [checksum, BitVec.toNat_not, BitVec.toNat_ofNat, Nat.mod_eq_of_lt (foldCarries_lt _)]

/-! ### What is summed -/

/-- A 16-bit big-endian word as a number (43_checksum.md R192). -/
theorem toNat_append_byte (hi lo : Byte) : (hi ++ lo : Half).toNat = hi.toNat * 2 ^ 8 + lo.toNat := by
  rw [BitVec.toNat_append, ← Nat.shiftLeft_add_eq_or_of_lt lo.isLt, Nat.shiftLeft_eq]

/-- The two halves of a 32-bit word as numbers (43_checksum.md R191). -/
theorem toNat_halves (v : Word) :
    (v.extractLsb' 16 16).toNat = v.toNat / 2 ^ 16 ∧ (v.extractLsb' 0 16).toNat = v.toNat % 2 ^ 16 := by
  have hv := v.isLt
  simp only [BitVec.extractLsb'_toNat, Nat.shiftRight_eq_div_pow]
  omega

/-- The word sum in closed form: the words by their index, and the last byte where the length is odd
(43_checksum.md R192, R193). -/
theorem wordSum_eq (bs : List Byte) :
    wordSum bs =
      ((List.range (bs.length / 2)).map
        (fun i => (bs.getD (2 * i) 0).toNat * 2 ^ 8 + (bs.getD (2 * i + 1) 0).toNat)).sum +
      (if bs.length % 2 = 1 then (bs.getD (bs.length - 1) 0).toNat * 2 ^ 8 else 0) := by
  induction bs using wordSum.induct with
  | case1 => rfl
  | case2 b => simp [wordSum, Nat.shiftLeft_eq]
  | case3 hi lo rest ih =>
    have hlen : (hi :: lo :: rest).length = rest.length + 2 := rfl
    have hlast (h : rest.length % 2 = 1) :
        (hi :: lo :: rest).getD (rest.length + 2 - 1) 0 = rest.getD (rest.length - 1) 0 := by
      cases rest with
      | nil => exact absurd h (by decide)
      | cons b rest => rfl
    have hodd :
        (if rest.length % 2 = 1 then ((hi :: lo :: rest).getD (rest.length + 2 - 1) 0).toNat * 2 ^ 8 else 0) =
          if rest.length % 2 = 1 then (rest.getD (rest.length - 1) 0).toNat * 2 ^ 8 else 0 :=
      ite_congr rfl (fun h => by rw [hlast h]) fun _ => rfl
    rw [wordSum, ih, toNat_append_byte, hlen, Nat.add_div_right _ Nat.two_pos, Nat.add_mod_right, hodd,
      List.range_succ_eq_map, List.map_cons, List.sum_cons, List.map_map, ← Nat.add_assoc]
    rfl

/-- No more than 0xFFFF for every word, the one the odd byte is padded to included (43_checksum.md R196). -/
theorem wordSum_le (bs : List Byte) : wordSum bs ≤ (bs.length + 1) / 2 * 65535 := by
  induction bs using wordSum.induct with
  | case1 => exact Nat.zero_le _
  | case2 b =>
    have hb := b.isLt
    simp only [wordSum, Nat.shiftLeft_eq, List.length_singleton]
    omega
  | case3 hi lo rest ih =>
    have hword := (hi ++ lo : Half).isLt
    simp only [wordSum, List.length_cons]
    omega

/-- Five 16-bit terms and a byte (43_checksum.md R196). -/
theorem pseudoHeaderSum_le (p : ParentContext) (len : Nat) : pseudoHeaderSum p len ≤ 5 * 65535 + 255 := by
  rw [pseudoHeaderSum]
  split
  · have hsrc := And.intro (p.src.extractLsb' 16 16).isLt (p.src.extractLsb' 0 16).isLt
    have hdst := And.intro (p.dst.extractLsb' 16 16).isLt (p.dst.extractLsb' 0 16).isLt
    have hproto := p.proto.isLt
    omega
  · exact Nat.zero_le _

/-! ### A checksum stored in its own field -/

/-- The checksum field is bytes 16 and 17 of the sequence (42_encode.md R178). -/
theorem patchChecksum_eq_append {bs : List Byte} (c : Half) (h : 18 ≤ bs.length) :
    patchChecksum bs c = bs.take 16 ++ c.extractLsb' 8 8 :: c.extractLsb' 0 8 :: bs.drop 18 := by
  have htake : (bs.take 16).length = 16 := List.length_take_of_le (by omega)
  rw [patchChecksum, List.set_eq_take_append_cons_drop (i := 16), if_pos (by omega),
    List.drop_eq_getElem_cons (by omega), List.set_append_right _ _ (by omega), htake]
  rfl

theorem wordSum_patchChecksum {bs : List Byte} (c : Half) (h : 18 ≤ bs.length) :
    wordSum (patchChecksum bs c) = wordSum (bs.take 16) + (c.toNat + wordSum (bs.drop 18)) := by
  have htake : (bs.take 16).length = 2 * 8 := List.length_take_of_le (by omega)
  rw [patchChecksum_eq_append c h, wordSum_append 8 _ _ htake, wordSum, extractLsb'_append_halves]

/-- The checksum field is a word of the sequence, so filling it in adds its value to the sum (43_checksum.md R192). -/
theorem checksumAcc_patchChecksum (p : ParentContext) {bs : List Byte} (c : Half) (h : 18 ≤ bs.length) :
    checksumAcc p (patchChecksum bs c) = checksumAcc p (patchChecksum bs 0) + c.toNat := by
  have hzero : (0 : Half).toNat = 0 := rfl
  simp only [checksumAcc, length_patchChecksum, wordSum_patchChecksum _ h]
  omega

/-- With its own checksum filled in the sequence has a positive multiple of 0xFFFF for its sum, and so the checksum 0
(43_checksum.md R197). -/
theorem checksum_patchChecksum_self (p : ParentContext) (bs : List Byte) (h : 18 ≤ bs.length) :
    checksum p (patchChecksum bs (checksum p (patchChecksum bs 0))) = 0 := by
  have hacc := checksumAcc_patchChecksum p (checksum p (patchChecksum bs 0)) h
  rw [toNat_checksum] at hacc
  generalize checksumAcc p (patchChecksum bs 0) = acc at hacc
  have hlt := foldCarries_lt acc
  have hmod := foldCarries_mod acc
  have hpos := foldCarries_pos_iff acc
  have hfull : foldCarries (checksumAcc p (patchChecksum bs (checksum p (patchChecksum bs 0)))) = 0xFFFF :=
    foldCarries_unique (by decide) (by omega) (by omega)
  apply BitVec.eq_of_toNat_eq
  rw [toNat_checksum, hfull]
  rfl

/-! ### CKSUM -/

/-- CKSUM over a window of WIRE answers its checksum and changes nothing (43_checksum.md R198). -/
theorem exec_cksum_inside {off len : Half} (s : State) (h : off.toNat + len.toNat ≤ Config.wireSize) :
    exec (.cksum off (len.setWidth 32)) s =
      .next (s.deliver ⟨.ok, (checksum s.parent (s.readBytes .wire off.toNat len.toNat)).setWidth 64⟩) := by
  rw [exec, execCksum, withOperand_value (by decide), withWindow, if_pos h, respond]

/-- A window past the end of WIRE is refused (60_exceptions.md R251). -/
theorem exec_cksum_outside {off len : Half} (s : State) (h : Config.wireSize < off.toNat + len.toNat) :
    exec (.cksum off (len.setWidth 32)) s = .next (s.deliver ⟨.addressOutOfRange, 0⟩) := by
  rw [exec, execCksum, withOperand_value (by decide), withWindow, if_neg (Nat.not_le.mpr h), raise]

/-- A length of more than 16 bits is refused at any offset (60_exceptions.md R250). -/
theorem exec_cksum_wide {imm : Word} (off : Half) (s : State) (h : 2 ^ 16 ≤ imm.toNat) :
    exec (.cksum off imm) s = .next (s.deliver ⟨.operandOutOfRange, 0⟩) := by
  rw [exec, execCksum, withOperand_wide h]

/-- Without a parent nothing is summed over no bytes (43_checksum.md R191, R198). -/
theorem checksum_nil {p : ParentContext} (h : p.valid = 0) : checksum p [] = 0xFFFF := by
  have hacc : checksumAcc p [] = 0 := by simp [checksumAcc, pseudoHeaderSum, wordSum, h]
  rw [checksum, hacc]
  rfl

/-- The layout with the checksum computed for it sums to the checksum 0 (43_checksum.md R197). -/
theorem checksum_layoutBytes_wireChecksum {s : State} (hs : ¬ badLayout s) (hcsum : s.hr.csum = 0) :
    checksum (parentAfter s) (layoutBytes s (wireChecksum s)) = 0 := by
  have hlen : 18 ≤ (layoutBytes s 0).length := by
    have h20 := twenty_le_totalLength hs
    rw [length_layoutBytes]
    omega
  have hself := checksum_patchChecksum_self (parentAfter s) (layoutBytes s 0) hlen
  rwa [patchChecksum_layoutBytes hs, patchChecksum_layoutBytes hs, ← wireChecksum_computed hcsum] at hself

end Sys2Proof.Machine

section

open Sys2Proof Sys2Proof.Machine Sys2Proof.Claims

/-- Settles O39: the halves of the addresses as numbers, and the word sum in closed form. -/
theorem checksumSumsTheWords : Obligations.ChecksumSumsTheWords := by
  intro p bs
  have hone : p.valid = 1 ↔ p.valid.toNat = 1 := BitVec.toNat_inj.symm
  obtain ⟨hsrcHigh, hsrcLow⟩ := toNat_halves p.src
  obtain ⟨hdstHigh, hdstLow⟩ := toNat_halves p.dst
  rw [checksumAcc, pseudoHeaderSum, wordSum_eq, hsrcHigh, hsrcLow, hdstHigh, hdstLow]
  simp only [hone, Nat.add_assoc]

/-- Settles O40: two passes fit 16 bits, and each keeps the residue and whether the sum is 0. -/
theorem twoPassesFoldAnySum : Obligations.TwoPassesFoldAnySum := fun acc h =>
  ⟨foldCarries_unique (foldPass_foldPass_lt h) ((foldPass_mod _).trans (foldPass_mod acc))
      ((foldPass_pos_iff _).trans (foldPass_pos_iff acc)),
    Nat.le_of_lt_succ (foldCarries_lt acc)⟩

/-- Settles O42, by the bounds of the pseudo-header and of the words. -/
theorem accumulatorNeverWraps : Obligations.AccumulatorNeverWraps := by
  intro p bs hlen
  have hpseudo := pseudoHeaderSum_le p bs.length
  have hwords := wordSum_le bs
  rw [checksumAcc]
  omega

/-- Settles O43: the field as stored makes the sum a positive multiple of 0xFFFF. -/
theorem storedChecksumVerifies : Obligations.StoredChecksumVerifies := by
  rintro p bs hlen c rfl
  exact checksum_patchChecksum_self p bs hlen

/-- Settles O44, by the three answers of CKSUM; with no parent an empty window has the sum 0. -/
theorem cksumAnswersTheChecksum : Obligations.CksumAnswersTheChecksum := by
  refine ⟨fun s off len hin => ?_, fun s off imm hwide => exec_cksum_wide off s hwide,
    fun s off len hout => exec_cksum_outside s hout, fun s off hvalid => ?_, fun s sp off imm hsp hc => ?_⟩
  · rw [← State.readBytes_eq_map]
    exact exec_cksum_inside s hin
  · have hempty := exec_cksum_inside (off := off) (len := 0) s (Nat.le_of_lt off.isLt)
    have hnil : checksum s.parent (s.readBytes .wire off.toNat (0 : Half).toNat) = 0xFFFF := checksum_nil hvalid
    rw [hnil] at hempty
    exact hempty
  · exact illegalWordsAnswerIllegalCommand s 0x52 sp off imm hc
      (.inr (.inr (.inl ⟨by decide, fun hzero => hsp (BitVec.eq_of_toNat_eq hzero)⟩)))

/-- Settles O45: what stands on the wire is the layout with its own checksum stored, and the parent summed is the one
ENCODE left. -/
theorem encodedHeaderVerifies : Obligations.EncodedHeaderVerifies := by
  intro s t hs hcsum ht
  obtain ⟨u, hu, hwire, -, -, -, hwlen, -, hparent, -⟩ := encodeWritesTheLayout s hs
  cases hu.symm.trans ht
  have hbytes : t.readBytes .wire 0 (totalLength s) = layoutBytes s (wireChecksum s) := by
    rw [State.readBytes_eq_map]
    exact List.map_congr_left fun k hk => by rw [Nat.zero_add, hwire k (List.mem_range.mp hk)]
  have hzero : (0 : Half).toNat = 0 := rfl
  have hin : (0 : Half).toNat + t.lr.wlen.toNat ≤ Config.wireSize := by
    rw [hzero, Nat.zero_add]
    exact Nat.le_of_lt t.lr.wlen.isLt
  rw [exec_cksum_inside t hin, hwlen, hzero, hbytes, hparent, checksum_layoutBytes_wireChecksum hs.1 hcsum]
  rfl

/-- Settles O41: the complement of the folded sum, which is positive where the sum is. -/
theorem checksumIsTheComplement : Obligations.ChecksumIsTheComplement :=
  ⟨toNat_checksum, fun acc h => Nat.eq_zero_of_not_pos fun hpos => ((foldCarries_pos_iff acc).mpr hpos).ne' h⟩

end

/-! PROOFS for 44_decode.md: the record registers read from a window as numbers; what DECODE answers, said once; the
state a successful DECODE leaves; the record ENCODE put on the wire, read back. -/

namespace Sys2Proof.Machine

open Sys2Proof.Claims

/-! ### The registers of a window -/

theorem toNat_read16_wire (s : State) (a : Nat) : (s.read16 .wire a).toNat = be16At s a := toNat_append_byte _ _

theorem toNat_read32_wire (s : State) (a : Nat) : (s.read32 .wire a).toNat = be32At s a := by
  rw [State.read32, BitVec.toNat_append, ← Nat.shiftLeft_add_eq_or_of_lt (s.read16 .wire (a + 2)).isLt,
    Nat.shiftLeft_eq, toNat_read16_wire, toNat_read16_wire, be32At]

/-- The header length read is the upper nibble of the flags/length word (44_decode.md R215). -/
theorem State.toNat_windowHeader_hlw (s : State) (off : Nat) : (s.windowHeader off).hlw.toNat = nibbleAt s off := by
  have hword := (s.read16 .wire (off + 12)).isLt
  rw [toNat_read16_wire] at hword
  rw [State.windowHeader, unpackLength, BitVec.extractLsb'_toNat, toNat_read16_wire, Nat.shiftRight_eq_div_pow, nibbleAt]
  omega

/-- The flags read are the low 9 bits of the flags/length word (44_decode.md R215). -/
theorem State.toNat_windowHeader_flags (s : State) (off : Nat) :
    (s.windowHeader off).flags.toNat = be16At s (off + 12) % 2 ^ 9 := by
  rw [State.windowHeader, unpackFlags, BitVec.extractLsb'_toNat, toNat_read16_wire, Nat.shiftRight_zero]

/-- The number of option bytes DECODE takes (44_decode.md R218). -/
theorem optionsTaken_windowHeader (s : State) (off len : Nat) :
    optionsTaken (s.windowHeader off).hlw len = optionsCount s off len := by
  rw [optionsTaken, optionsRegion, State.toNat_windowHeader_hlw, optionsCount]

theorem optionsCount_le (s : State) (off len : Nat) : optionsCount s off len ≤ 40 ∧ optionsCount s off len ≤ len - 20 :=
  optionsTaken_windowHeader s off len ▸ optionsTaken_le _ _

/-! ### What DECODE answers -/

/-- The state a successful DECODE leaves, its response delivered (44_decode.md R210). -/
def State.afterDecode (s : State) (off len : Nat) : State := (s.clearRecord.populate off len).deliver ⟨.ok, 0⟩

/-- The four answers of DECODE on a window inside WIRE, in the order of its checks (44_decode.md R210). -/
theorem exec_decode_inside {off len : Half} (s : State) (h : off.toNat + len.toNat ≤ 65536) :
    exec (.decode off (len.setWidth 32)) s =
      if len.toNat < 14 then failDecode .bufferUnderrun s
      else if nibbleAt s off.toNat < 5 then failDecode .headerTooShort s
      else if len.toNat < 20 then failDecode .bufferUnderrun s
      else .next (s.afterDecode off.toNat len.toNat) := by
  rw [exec, execDecode, withOperand_value (by decide), withWindow, if_pos h, ← State.toNat_windowHeader_hlw]
  rfl

/-- A window of at least 20 bytes with a nibble of at least 5 is decoded. -/
theorem exec_decode_complete {off len : Half} (s : State) (h : off.toNat + len.toNat ≤ 65536) (hlen : 20 ≤ len.toNat)
    (hnibble : 5 ≤ nibbleAt s off.toNat) :
    exec (.decode off (len.setWidth 32)) s = .next (s.afterDecode off.toNat len.toNat) := by
  rw [exec_decode_inside s h, if_neg (by omega), if_neg (by omega), if_neg (by omega)]

/-- The record of a failed DECODE is legal. The free values depend on the number of the draw only, so the invariant
says it from the state after reset at that draw. -/
theorem State.unspecifyRecord_legal (s : State) :
    s.unspecifyRecord.lr.optlen.toNat ≤ 40 ∧
      (s.unspecifyRecord.lr.payvalid = 0 → s.unspecifyRecord.lr.paylen = 0) := by
  have hdraw : ({ State.reset with draws := s.draws } : State).Inv :=
    State.Inv.congr (s := State.reset) resetMeetsTheInvariant rfl rfl rfl (by rintro (_ | _ | _) <;> rfl)
  exact ⟨hdraw.unspecifyRecord.optlen_le, hdraw.unspecifyRecord.paylen_zero⟩

/-! ### The state a successful DECODE leaves -/

section AfterDecode

variable (s : State) (off len : Nat)

theorem State.afterDecode_hr : (s.afterDecode off len).hr = s.windowHeader off := rfl

theorem State.toNat_afterDecode_optlen : (s.afterDecode off len).lr.optlen.toNat = optionsCount s off len := by
  obtain ⟨h40, -⟩ := optionsCount_le s off len
  have hoptlen : (s.afterDecode off len).lr.optlen = BitVec.ofNat 6 (optionsTaken (s.windowHeader off).hlw len) := rfl
  rw [hoptlen, optionsTaken_windowHeader, BitVec.toNat_ofNat]
  omega

theorem State.toNat_afterDecode_paylen (hlen : len < 65536) :
    (s.afterDecode off len).lr.paylen.toNat = len - 20 - optionsCount s off len := by
  have hpaylen : (s.afterDecode off len).lr.paylen =
      BitVec.ofNat 16 (len - 20 - optionsTaken (s.windowHeader off).hlw len) := rfl
  rw [hpaylen, optionsTaken_windowHeader, BitVec.toNat_ofNat]
  omega

/-- Where bytes of WIRE have been copied to the start of a space. -/
theorem State.readByte_store_wire (sp : Space) (a n i : Nat) :
    (s.store sp 0 (s.readBytes .wire a n)).readByte sp i =
      if i < n then s.readByte .wire (a + i) else s.readByte sp i := by
  split
  · next hi =>
    have hread := s.readByte_store_inside sp 0 i (s.readBytes .wire a n) (by rwa [State.length_readBytes])
    rwa [Nat.zero_add, State.getElem_readBytes] at hread
  · next hi =>
    refine s.readByte_store_outside sp sp 0 i _ (.inr (.inr ?_))
    rw [State.length_readBytes]
    omega

/-- The options stand at the start of OPT, and beyond them what stood there (44_decode.md R218). -/
theorem State.readByte_opt_afterDecode (i : Nat) :
    (s.afterDecode off len).readByte .opt i =
      if i < optionsCount s off len then s.readByte .wire (off + 20 + i) else s.readByte .opt i := by
  rw [← optionsTaken_windowHeader]
  exact s.clearRecord.readByte_store_wire .opt (off + 20) _ i

/-- The payload stands at the start of PAY, and beyond it what stood there (44_decode.md R220). -/
theorem State.readByte_pay_afterDecode (j : Nat) :
    (s.afterDecode off len).readByte .pay j =
      if j < len - 20 - optionsCount s off len then s.readByte .wire (off + 20 + optionsCount s off len + j)
      else s.readByte .pay j := by
  rw [← optionsTaken_windowHeader]
  exact s.clearRecord.readByte_store_wire .pay (off + 20 + _) _ j

end AfterDecode

/-! ### The record ENCODE put on the wire, read back -/

@[simp] theorem unpackLength_packFlagsLength (flags : BitVec 9) (h : BitVec 4) :
    unpackLength (packFlagsLength flags h) = h := by
  have hflags := flags.isLt
  have hlength := h.isLt
  apply BitVec.eq_of_toNat_eq
  rw [unpackLength, BitVec.extractLsb'_toNat, toNat_packFlagsLength, Nat.shiftRight_eq_div_pow]
  omega

@[simp] theorem unpackFlags_packFlagsLength (flags : BitVec 9) (h : BitVec 4) :
    unpackFlags (packFlagsLength flags h) = flags := by
  have hflags := flags.isLt
  apply BitVec.eq_of_toNat_eq
  rw [unpackFlags, BitVec.extractLsb'_toNat, toNat_packFlagsLength, Nat.shiftRight_zero]
  omega

/-- A 16-bit field read where its bytes stand (20_memory.md R60). -/
theorem State.read16_of_readBytes {s : State} {sp : Space} {a : Nat} {v : Half} (h : s.readBytes sp a 2 = be16 v) :
    s.read16 sp a = v := by
  obtain ⟨hhigh, hrest⟩ := List.cons.inj h
  obtain ⟨hlow, -⟩ := List.cons.inj hrest
  rw [State.read16, hhigh, hlow, extractLsb'_append_halves]

theorem extractLsb'_extractLsb'_add {w m n : Nat} (x : BitVec w) {a b : Nat} (h : b + n ≤ m) :
    (x.extractLsb' a m).extractLsb' b n = x.extractLsb' (a + b) n := by
  ext k hk
  have hin : b + k < m := by omega
  simp [hin, Nat.add_assoc]

/-- The bytes of a 32-bit field are those of its two halves. -/
theorem be32_eq_append (v : Word) : be32 v = be16 (v.extractLsb' 16 16) ++ be16 (v.extractLsb' 0 16) := by
  simp [be32, be16, extractLsb'_extractLsb'_add]

/-- A 32-bit field read where its bytes stand (20_memory.md R60). -/
theorem State.read32_of_readBytes {s : State} {sp : Space} {a : Nat} {v : Word} (h : s.readBytes sp a 4 = be32 v) :
    s.read32 sp a = v := by
  have hhalves : s.readBytes sp a 2 ++ s.readBytes sp (a + 2) 2 = be32 v := h
  rw [be32_eq_append] at hhalves
  obtain ⟨hhigh, hlow⟩ := List.append_inj hhalves rfl
  rw [State.read32, State.read16_of_readBytes hhigh, State.read16_of_readBytes hlow]
  exact (BitVec.extractLsb'_append_extractLsb'_eq_extractLsb' (start₁ := 0) (len₁ := 16) rfl).trans
    BitVec.extractLsb'_eq_self

/-- Where base bytes stand on the wire DECODE reads their record, with the length they were given. -/
theorem State.windowHeader_of_baseBytes {s : State} {off : Nat} {r : HeaderRecord} {h : BitVec 4}
    (hbytes : s.readBytes .wire off 20 = baseBytes r h) : s.windowHeader off = { r with hlw := h } := by
  have hfields : s.readBytes .wire off 2 ++ s.readBytes .wire (off + 2) 2 ++ s.readBytes .wire (off + 4) 4 ++
      s.readBytes .wire (off + 8) 4 ++ s.readBytes .wire (off + 12) 2 ++ s.readBytes .wire (off + 14) 2 ++
      s.readBytes .wire (off + 16) 2 ++ s.readBytes .wire (off + 18) 2 = baseBytes r h := hbytes
  obtain ⟨hfields, hurg⟩ := List.append_inj hfields rfl
  obtain ⟨hfields, hcsum⟩ := List.append_inj hfields rfl
  obtain ⟨hfields, hwin⟩ := List.append_inj hfields rfl
  obtain ⟨hfields, hword⟩ := List.append_inj hfields rfl
  obtain ⟨hfields, hack⟩ := List.append_inj hfields rfl
  obtain ⟨hfields, hseq⟩ := List.append_inj hfields rfl
  obtain ⟨hsport, hdport⟩ := List.append_inj hfields rfl
  rw [State.windowHeader, State.read16_of_readBytes hsport, State.read16_of_readBytes hdport,
    State.read32_of_readBytes hseq, State.read32_of_readBytes hack, State.read16_of_readBytes hword,
    State.read16_of_readBytes hwin, State.read16_of_readBytes hcsum, State.read16_of_readBytes hurg,
    unpackLength_packFlagsLength, unpackFlags_packFlagsLength]

/-- DECODE of ENCODE's output reads the record, the effective length and the checksum field emitted. -/
theorem State.windowHeader_afterEncode {s : State} (hs : ¬ badLayout s) :
    s.afterEncode.windowHeader 0 =
      { s.hr with hlw := BitVec.ofNat 4 (headerLength s), csum := wireChecksum s } := by
  rw [← effectiveLength_eq_ofNat]
  refine State.windowHeader_of_baseBytes (r := { s.hr with csum := wireChecksum s }) ?_
  rw [State.readBytes_eq_map, ← map_layoutByte_base]
  refine List.map_congr_left fun k hk => ?_
  have h20 := twenty_le_totalLength hs
  have hk : k < 20 := List.mem_range.mp hk
  rw [Nat.zero_add, State.readByte_wire_afterEncode hs, if_pos (by omega)]

theorem nibbleAt_afterEncode {s : State} (hs : ¬ badLayout s) : nibbleAt s.afterEncode 0 = headerLength s := by
  rw [← State.toNat_windowHeader_hlw, State.windowHeader_afterEncode hs, ← effectiveLength_eq_ofNat,
    toNat_effectiveLength]

/-- Of ENCODE's output the whole options region is taken as options, since nothing is cut off. -/
theorem optionsCount_afterEncode {s : State} (hs : ¬ badLayout s) :
    optionsCount s.afterEncode 0 (Claims.totalLength s) = 4 * headerLength s - 20 := by
  obtain ⟨h5, -⟩ := (not_badLayout_iff s).mp hs
  rw [optionsCount, nibbleAt_afterEncode hs, Claims.totalLength]
  split <;> omega

theorem toNat_afterEncode_wlen {s : State} (hs : encodable s) :
    s.afterEncode.lr.wlen.toNat = Claims.totalLength s := by
  obtain ⟨-, htotal⟩ := hs
  rw [s.afterEncode_lr, BitVec.toNat_ofNat]
  exact Nat.mod_eq_of_lt (Nat.lt_succ_of_le htotal)

/-- ENCODE's output is decoded. -/
theorem exec_decode_afterEncode {s : State} (hs : encodable s) :
    exec (.decode 0 (s.afterEncode.lr.wlen.setWidth 32)) s.afterEncode =
      .next (s.afterEncode.afterDecode 0 (Claims.totalLength s)) := by
  have hwlen := toNat_afterEncode_wlen hs
  obtain ⟨hb, htotal⟩ := hs
  obtain ⟨h5, -⟩ := (not_badLayout_iff s).mp hb
  have hzero : (0 : Half).toNat = 0 := rfl
  rw [exec_decode_complete, hzero, hwlen]
  · rw [hzero, hwlen]
    omega
  · rw [hwlen]
    exact twenty_le_totalLength hb
  · rw [hzero, nibbleAt_afterEncode hb]
    exact h5

end Sys2Proof.Machine

section

open Sys2Proof Sys2Proof.Machine Sys2Proof.Claims

/-- Settles O46, field by field of the state a successful DECODE leaves. -/
theorem decodePopulatesTheRecord : Obligations.DecodePopulatesTheRecord := by
  intro s off len hin hlen hnibble
  have hopt := s.readByte_opt_afterDecode off.toNat len.toNat
  have hpay := s.readByte_pay_afterDecode off.toNat len.toNat
  exact ⟨_, exec_decode_complete s hin hlen hnibble, toNat_read16_wire s _, toNat_read16_wire s _,
    toNat_read32_wire s _, toNat_read32_wire s _, s.toNat_windowHeader_hlw _, s.toNat_windowHeader_flags _,
    toNat_read16_wire s _, toNat_read16_wire s _, toNat_read16_wire s _, s.toNat_afterDecode_optlen _ _,
    fun i hi => by rw [hopt, if_pos hi], fun i hi => by rw [hopt, if_neg (Nat.not_lt.mpr hi)], rfl,
    s.toNat_afterDecode_paylen _ _ len.isLt, fun j hj => by rw [hpay, if_pos hj],
    fun j hj => by rw [hpay, if_neg (Nat.not_lt.mpr hj)], fun _ => rfl, rfl, rfl, rfl, rfl, rfl, rfl, rfl⟩

/-- Settles O48: the register map lists none of these for DECODE. -/
theorem decodeNeverChangesWireOrParent : Obligations.DecodeNeverChangesWireOrParent := by
  intro s t off imm ht
  obtain ⟨hreg, hmem⟩ := onlyListedCommandsWrite (.decode off imm) s t ht
  have heq {n : Nat} {x y : BitVec n} : x.toNat = y.toNat → x = y := BitVec.eq_of_toNat_eq
  have hparent : t.parent = s.parent :=
    (ParentContext.mk.injEq ..).mpr
      ⟨heq (hreg .pvalid rfl), heq (hreg .psrc rfl), heq (hreg .pdst rfl), heq (hreg .pproto rfl)⟩
  exact ⟨hmem .wire rfl, heq (hreg .wlen rfl), hparent⟩

/-- Settles O47: the four answers of DECODE on a window inside WIRE; what is said of every one of them holds of every
command, or of every DECODE. -/
theorem decodeRejectsShortHeaders : Obligations.DecodeRejectsShortHeaders := by
  intro s off len hin st hst
  have hlegal := s.unspecifyRecord_legal
  have hanswer : ∃ t, exec (.decode off (len.setWidth 32)) s = .next t ∧ t.responses = s.responses ++ [⟨st, 0⟩] ∧
      t.lr.optlen.toNat ≤ 40 ∧ (t.lr.payvalid = 0 → t.lr.paylen = 0) := by
    rw [exec_decode_inside s hin]
    obtain ⟨h14, rfl⟩ | ⟨h14, h5, rfl⟩ | ⟨h14, h20, h5, rfl⟩ | ⟨h20, h5, rfl⟩ := hst
    · rw [if_pos h14]
      exact ⟨_, rfl, rfl, hlegal⟩
    · rw [if_neg (by omega), if_pos h5]
      exact ⟨_, rfl, rfl, hlegal⟩
    · rw [if_neg (by omega), if_neg (by omega), if_pos h20]
      exact ⟨_, rfl, rfl, hlegal⟩
    · rw [if_neg (by omega), if_neg (by omega), if_neg (by omega)]
      refine ⟨_, rfl, rfl, ?_, nofun⟩
      rw [State.toNat_afterDecode_optlen]
      exact (optionsCount_le _ _ _).1
  obtain ⟨t, ht, hresp, hoptlen, hpaylen⟩ := hanswer
  obtain ⟨hwire, hwlen, hparent⟩ := decodeNeverChangesWireOrParent s t off _ ht
  obtain ⟨u, hu, hran⟩ := exec_ranCommands (.decode off (len.setWidth 32)) s
  cases hu.symm.trans ht
  exact ⟨_, ht, hresp, hran.pc, hwire, hwlen, hparent, hran.program, hran.params, hoptlen, hpaylen⟩

/-- Settles O49: what DECODE takes from the wire is the layout ENCODE put there. -/
theorem decodeOfEncodeGivesTheRecord : Obligations.DecodeOfEncodeGivesTheRecord := by
  intro s t hs hcsum ht
  cases (exec_encode_encodable hs).symm.trans ht
  have hdecode := exec_decode_afterEncode hs
  obtain ⟨hb, htotal⟩ := hs
  obtain ⟨h5, -⟩ := (not_badLayout_iff s).mp hb
  have hcount := optionsCount_afterEncode hb
  have hplen : totalLength s - 20 - (4 * headerLength s - 20) = payloadLength s := by
    rw [totalLength]
    omega
  refine ⟨_, hdecode, rfl, ?_, ?_, fun i hi => ?_, rfl, ?_, fun j hj => ?_⟩
  · rw [State.afterDecode_hr, State.windowHeader_afterEncode hb, wireChecksum_supplied hcsum]
  · rw [State.toNat_afterDecode_optlen, hcount]
  · rw [State.readByte_opt_afterDecode, hcount, if_pos hi, State.readByte_wire_afterEncode hb,
      if_pos (by rw [totalLength]; omega), layoutByte_of_ge s _ (by omega), if_pos (by omega)]
    simp only [Nat.zero_add, Nat.add_lt_add_iff_left, Nat.add_sub_cancel_left]
  · rw [State.toNat_afterDecode_paylen _ _ _ (by omega), hcount, hplen]
  · rw [State.readByte_pay_afterDecode, hcount, hplen, if_pos hj, State.readByte_wire_afterEncode hb,
      if_pos (by rw [totalLength]; omega), layoutByte_of_ge s _ (by omega), if_neg (by omega)]
    congr 1
    omega

end

/-! PROOFS for 45_option_extractor.md: what the test of the options length answers; the bytes of a field read
big-endian; what each query answers, said once. -/

namespace Sys2Proof.Machine

/-! ### The test of the options length -/

/-- An option index below `LR.OPTLEN` is answered (45_option_extractor.md R230). -/
theorem withOptionIndex_inside {last : Nat} {s : State} (v : DWord) (h : last < s.lr.optlen.toNat) :
    withOptionIndex last s v = .next (s.deliver ⟨.ok, v⟩) := by
  rw [withOptionIndex, if_pos h, respond]

/-- An option index at or beyond `LR.OPTLEN` is refused (60_exceptions.md R246). -/
theorem withOptionIndex_outside {last : Nat} {s : State} (v : DWord) (h : s.lr.optlen.toNat ≤ last) :
    withOptionIndex last s v = .next (s.deliver ⟨.optionAccessOutOfRange, 0⟩) := by
  rw [withOptionIndex, if_neg (Nat.not_lt.mpr h), raise]

/-! ### The bytes of a field -/

/-- Byte `i`, counted from the most significant, of two halves of `n` bytes each: of the high half the first `n`, of
the low half the others. -/
theorem extractLsb'_append_byte {w n : Nat} {hi lo : BitVec w} {byteAt : Nat → Byte} (hw : w = 8 * n)
    (hhi : ∀ i, i < n → hi.extractLsb' (w - 8 - 8 * i) 8 = byteAt i)
    (hlo : ∀ i, i < n → lo.extractLsb' (w - 8 - 8 * i) 8 = byteAt (n + i)) {i : Nat} (h : i < n + n) :
    (hi ++ lo).extractLsb' (w + w - 8 - 8 * i) 8 = byteAt i := by
  by_cases hin : i < n
  · have hstart : w + w - 8 - 8 * i - w = w - 8 - 8 * i := by omega
    rw [BitVec.extractLsb'_append_eq_of_le (by omega), hstart, hhi i hin]
  · have hstart : w + w - 8 - 8 * i = w - 8 - 8 * (i - n) := by omega
    have hindex : n + (i - n) = i := by omega
    rw [BitVec.extractLsb'_append_eq_of_add_le (by omega), hstart, hlo (i - n) (by omega), hindex]

theorem State.extractLsb'_read16 (s : State) (sp : Space) (a : Nat) {i : Nat} (h : i < 2) :
    (s.read16 sp a).extractLsb' (8 - 8 * i) 8 = s.readByte sp (a + i) := by
  obtain rfl | rfl : i = 0 ∨ i = 1 := by omega
  · exact BitVec.extractLsb'_append_eq_left
  · exact BitVec.extractLsb'_append_eq_right

/-- A 32-bit field holds its four bytes, the first the most significant (00_scope.md R9). -/
theorem State.extractLsb'_read32 (s : State) (sp : Space) (a : Nat) {i : Nat} (h : i < 4) :
    (s.read32 sp a).extractLsb' (24 - 8 * i) 8 = s.readByte sp (a + i) :=
  extractLsb'_append_byte (n := 2) (byteAt := fun k => s.readByte sp (a + k)) rfl
    (fun _ hk => s.extractLsb'_read16 sp a hk)
    (fun k hk => (s.extractLsb'_read16 sp (a + 2) hk).trans (by rw [Nat.add_assoc])) h

/-- A 64-bit field holds its eight bytes, the first the most significant (45_option_extractor.md R233). -/
theorem State.extractLsb'_read64 (s : State) (sp : Space) (a : Nat) {i : Nat} (h : i < 8) :
    (s.read64 sp a).extractLsb' (56 - 8 * i) 8 = s.readByte sp (a + i) :=
  extractLsb'_append_byte (n := 4) (byteAt := fun k => s.readByte sp (a + k)) rfl
    (fun _ hk => s.extractLsb'_read32 sp a hk)
    (fun k hk => (s.extractLsb'_read32 sp (a + 4) hk).trans (by rw [Nat.add_assoc])) h

/-! ### What the queries answer -/

/-- MP_ENABLED answers in every state: 1 only where byte 20 is an option byte and the kind 0x1E
(45_option_extractor.md R231). -/
theorem exec_mpEnabled (s : State) :
    exec (.mpEnabled 0) s =
      .next (s.deliver ⟨.ok, if 20 < s.lr.optlen.toNat ∧ s.readByte .opt 20 = 0x1E then 1 else 0⟩) := by
  rw [exec, execMpEnabled, withOperand_none]
  by_cases hlen : 20 < s.lr.optlen.toNat
  · simp only [hlen, if_true, true_and, respond]
  · simp only [hlen, if_false, false_and, respond]

theorem exec_mpSubtype (s : State) :
    exec (.mpSubtype 0) s = withOptionIndex 22 s (subtypeCode (s.readByte .opt 22)) := rfl

theorem exec_mpKey (s : State) : exec (.mpKey 0) s = withOptionIndex 31 s (s.read64 .opt 24) := rfl

theorem exec_mpToken (s : State) :
    exec (.mpToken 0) s = withOptionIndex 27 s ((s.read32 .opt 24).setWidth 64) := rfl

/-- The return code of a byte that is no known subtype, -1 in 64 bits (45_option_extractor.md R232). -/
theorem subtypeCode_unknown {b : Byte} (hcapable : b ≠ 0x00) (hjoin : b ≠ 0x10) :
    subtypeCode b = 0xFFFFFFFFFFFFFFFF := by
  rw [subtypeCode, if_neg hcapable, if_neg hjoin]
  rfl

end Sys2Proof.Machine

section

open Sys2Proof Sys2Proof.Machine

/-- Settles O50: MP_ENABLED tests the length itself and answers in every state; MP_SUBTYPE passes the common test of
the option index first, then answers the code of its byte. -/
theorem multipathPresenceAndSubtype : Obligations.MultipathPresenceAndSubtype := by
  refine ⟨fun s hlen hkind => ?enabled, fun s hnot => ?notEnabled, fun s hlen => ?refused,
    fun s hlen hcapable => ?capable, fun s hlen hjoin => ?join, fun s hlen hcapable hjoin => ?unknown⟩
  case enabled =>
    rw [exec_mpEnabled, if_pos ⟨hlen, hkind⟩]
    rfl
  case notEnabled =>
    rw [exec_mpEnabled, if_neg fun ⟨hlen, hkind⟩ => hnot.elim (Nat.not_le.mpr hlen) fun hne => hne hkind]
    rfl
  case refused =>
    rw [exec_mpSubtype]
    exact withOptionIndex_outside _ hlen
  case capable =>
    rw [exec_mpSubtype, hcapable]
    exact withOptionIndex_inside _ hlen
  case join =>
    rw [exec_mpSubtype, hjoin]
    exact withOptionIndex_inside _ hlen
  case unknown =>
    rw [exec_mpSubtype, subtypeCode_unknown hcapable hjoin]
    exact withOptionIndex_inside _ hlen

/-- Settles O51: the fields read from index 24 on hold the option bytes in order, and the last of them is in range. -/
theorem multipathKeyAndToken : Obligations.MultipathKeyAndToken := by
  refine ⟨fun s hlen => ⟨s.read64 .opt 24, ?key, fun _ hi => s.extractLsb'_read64 .opt 24 hi⟩, fun s hlen => ?keyRefused,
    fun s hlen => ⟨s.read32 .opt 24, ?token, fun _ hi => s.extractLsb'_read32 .opt 24 hi⟩, fun s hlen => ?tokenRefused⟩
  case key =>
    rw [exec_mpKey]
    exact withOptionIndex_inside _ hlen
  case keyRefused =>
    rw [exec_mpKey]
    exact withOptionIndex_outside _ (Nat.le_of_lt_succ hlen)
  case token =>
    rw [exec_mpToken]
    exact withOptionIndex_inside _ hlen
  case tokenRefused =>
    rw [exec_mpToken]
    exact withOptionIndex_outside _ (Nat.le_of_lt_succ hlen)

end

/-! PROOFS for 60_exceptions.md: the one response a command delivers; what an operand, a window and an address out of
range answer; the statuses a command can end with. -/

namespace Sys2Proof.Machine

open Sys2Proof.Claims

/-! ### The response a command delivers -/

/-- Where no command ran, no response was delivered. -/
theorem RanCommands.responses_eq {s u : State} (hu : RanCommands 0 s u) : u.responses = s.responses := by
  obtain ⟨rs, hlen, hrs⟩ := hu.responses
  rw [hrs, List.length_eq_zero_iff.mp hlen, List.append_nil]

/-- A response delivered after those of `s` is the one more that the state has then. -/
theorem response_of_deliver {s u : State} {r r' : Response} (hu : u.responses = s.responses)
    (h : (u.deliver r).responses = s.responses ++ [r']) : r = r' := by
  rw [State.deliver_responses, hu] at h
  exact List.singleton_injective (List.append_cancel_left h)

/-- Every command ends with the delivery of one response, of value 0 unless its status is OK, to a state in which
none was delivered (60_exceptions.md R241). -/
theorem exec_delivers (i : Instr) (s : State) :
    ∃ u r, exec i s = .next (u.deliver r) ∧ RanCommands 0 s u ∧ (r.st ≠ .ok → r.val = 0) := by
  have h := exec_answers i s
  generalize exec i s = o at h ⊢
  cases h with
  | refused st => exact ⟨_, _, rfl, .of_eq rfl rfl rfl rfl, fun _ => rfl⟩
  | completed v => exact ⟨_, _, rfl, ranCommands_effect i s, fun hne => absurd rfl hne⟩
  | failed a imm st => exact ⟨_, _, rfl, ranCommands_unspecifyRecord s, fun _ => rfl⟩

/-! ### What is out of range -/

theorem setRegister_wide {n : Nat} {imm : Word} {s : State} {write : BitVec n → State} (h : 2 ^ n ≤ imm.toNat) :
    setRegister n imm s write = .next (s.deliver ⟨.operandOutOfRange, 0⟩) :=
  withOperand_wide h

theorem getRegister_wide {n : Nat} {imm : Word} {s : State} {v : BitVec n} (h : 2 ^ 0 ≤ imm.toNat) :
    getRegister imm s v = .next (s.deliver ⟨.operandOutOfRange, 0⟩) :=
  withOperand_wide h

/-- Every command checks its operand first, at the width 30_encoding.md R93 gives it (60_exceptions.md R250). -/
theorem exec_wide {i : Instr} (s : State) (h : 2 ^ i.operandWidth ≤ i.imm.toNat) :
    exec i s = .next (s.deliver ⟨.operandOutOfRange, 0⟩) := by
  cases i with
  | setSport | setDport | setSeq | setAck | setHlw | setFlags | setWin | setCsum | setUrg | setPay | setPsrc | setPdst
  | setPproto | setPvalid =>
    rw [exec]
    exact setRegister_wide h
  | getSport | getDport | getSeq | getAck | getHlw | getFlags | getWin | getCsum | getUrg | getOptlen | getPaylen
  | getPayvalid | getWlen | getPsrc | getPdst | getPproto | getPvalid =>
    rw [exec]
    exact getRegister_wide h
  | _ =>
    rw [exec]
    exact withOperand_wide h

/-- A window past the end of WIRE is refused before DECODE begins on the record (60_exceptions.md R251). -/
theorem exec_decode_outside {off len : Half} (s : State) (h : Config.wireSize < off.toNat + len.toNat) :
    exec (.decode off (len.setWidth 32)) s = .next (s.deliver ⟨.addressOutOfRange, 0⟩) := by
  rw [exec, execDecode, withOperand_value (by decide), withWindow, if_neg (Nat.not_le.mpr h), raise]

/-! ### The column "raised by" -/

/-- From `s` the outcome is one more response, of a status the table lists for `i` (60_exceptions.md R242). -/
inductive AnswersAsListed (i : Instr) (s : State) : Host.Outcome State Fault Refusal → Prop where
  | deliver (u : State) (st : Status) (v : DWord) (hu : u.responses = s.responses) (hst : raisedBy i st) :
      AnswersAsListed i s (.next (u.deliver ⟨st, v⟩))

/-- Only a width below the 32 bits of `imm` leaves a bit above it (30_encoding.md R88). -/
theorem lt_32_of_wide {n : Nat} {imm : Word} (h : 2 ^ n ≤ imm.toNat) : n < 32 :=
  (Nat.pow_lt_pow_iff_right (by decide)).mp (Nat.lt_of_le_of_lt h imm.isLt)

section RaisedBy

variable {i : Instr} {s u : State}

theorem AnswersAsListed.respond {v : DWord} (hu : u.responses = s.responses) : AnswersAsListed i s (respond v u) :=
  .deliver u .ok v hu trivial

theorem AnswersAsListed.raise {st : Status} (hst : raisedBy i st) (hu : u.responses = s.responses) :
    AnswersAsListed i s (raise st u) :=
  .deliver u st 0 hu hst

theorem AnswersAsListed.withOperand {imm : Word} {run : BitVec i.operandWidth → Host.Outcome State Fault Refusal}
    (h : ∀ v, AnswersAsListed i s (run v)) : AnswersAsListed i s (withOperand i.operandWidth imm s run) := by
  unfold Machine.withOperand
  split
  · exact h _
  · next hwide => exact .raise (lt_32_of_wide (Nat.not_lt.mp hwide)) rfl

theorem AnswersAsListed.withAddress {sp : Space} {a : Half} {run : Nat → Host.Outcome State Fault Refusal}
    (hst : raisedBy i .addressOutOfRange) (h : ∀ x, AnswersAsListed i s (run x)) :
    AnswersAsListed i s (withAddress sp a s run) := by
  unfold Machine.withAddress
  split
  · exact h _
  · exact .raise hst rfl

theorem AnswersAsListed.withWindow {a len : Half} {run : Nat → Nat → Host.Outcome State Fault Refusal}
    (hst : raisedBy i .addressOutOfRange) (h : ∀ off n, AnswersAsListed i s (run off n)) :
    AnswersAsListed i s (withWindow a len s run) := by
  unfold Machine.withWindow
  split
  · exact h _ _
  · exact .raise hst rfl

theorem AnswersAsListed.withOptionIndex {last : Nat} {v : DWord} (hst : raisedBy i .optionAccessOutOfRange) :
    AnswersAsListed i s (withOptionIndex last s v) := by
  unfold Machine.withOptionIndex
  split
  · exact .respond rfl
  · exact .raise hst rfl

theorem AnswersAsListed.setRegister {imm : Word} {write : BitVec i.operandWidth → State}
    (hw : ∀ v, (write v).responses = s.responses) :
    AnswersAsListed i s (setRegister i.operandWidth imm s write) :=
  .withOperand fun v => .respond (hw v)

theorem AnswersAsListed.getRegister {n : Nat} {imm : Word} {v : BitVec n} (h0 : i.operandWidth = 0) :
    AnswersAsListed i s (getRegister imm s v) := by
  unfold Machine.getRegister
  rw [← h0]
  exact .withOperand fun _ => .respond rfl

end RaisedBy

/-- Every command ends with a status the table lists for it (60_exceptions.md R242). -/
theorem exec_answersAsListed (i : Instr) (s : State) : AnswersAsListed i s (exec i s) := by
  cases i with
  | setSport | setDport | setSeq | setAck | setHlw | setFlags | setWin | setCsum | setUrg | setPay | setPsrc | setPdst
  | setPproto | setPvalid =>
    rw [exec]
    exact .setRegister fun _ => rfl
  | setOpts imm =>
    rw [exec]
    refine .withOperand fun n => ?_
    split
    · exact .raise ⟨imm, rfl⟩ rfl
    · exact .respond rfl
  | stb sp a imm =>
    exact .withOperand fun b => .withAddress ⟨sp, a, imm, .inl rfl⟩ fun x => .respond (s.store_responses sp x _)
  | ldb sp a imm =>
    exact .withOperand fun _ => .withAddress ⟨sp, a, imm, .inr (.inl rfl)⟩ fun _ => .respond rfl
  | encode imm =>
    rw [exec]
    refine .withOperand fun _ => ?_
    dsimp only
    split
    · exact .raise ⟨imm, rfl⟩ rfl
    · split
      · exact .raise ⟨imm, rfl⟩ rfl
      · exact .respond (s.encoded_responses _)
  | decode a imm =>
    refine .withOperand fun _ => .withWindow ⟨.wire, a, imm, .inr (.inr (.inl rfl))⟩ fun _ _ => ?_
    split
    · exact .raise ⟨a, imm, rfl⟩ rfl
    · split
      · exact .raise ⟨a, imm, rfl⟩ rfl
      · split
        · exact .raise ⟨a, imm, rfl⟩ rfl
        · exact .respond rfl
  | cksum a imm =>
    exact .withOperand fun _ => .withWindow ⟨.wire, a, imm, .inr (.inr (.inr rfl))⟩ fun _ _ => .respond rfl
  | mpEnabled =>
    rw [exec]
    refine .withOperand fun _ => ?_
    split <;> exact .respond rfl
  | mpSubtype imm => exact .withOperand fun _ => .withOptionIndex ⟨imm, .inl rfl⟩
  | mpKey imm => exact .withOperand fun _ => .withOptionIndex ⟨imm, .inr (.inl rfl)⟩
  | mpToken imm => exact .withOperand fun _ => .withOptionIndex ⟨imm, .inr (.inr rfl)⟩
  | getSport | getDport | getSeq | getAck | getHlw | getFlags | getWin | getCsum | getUrg | getOptlen | getPaylen
  | getPayvalid | getWlen | getPsrc | getPdst | getPproto | getPvalid => exact .getRegister rfl
  | clear | rstCsum | clrPay =>
    rw [exec]
    refine .withOperand fun _ => ?_
    exact .respond rfl

end Sys2Proof.Machine

section

open Sys2Proof Sys2Proof.Machine

/-- Settles O13: the response the command ends with is the only one, and `pc` advances with its delivery. -/
theorem everyCommandAnswersOnce : Obligations.EveryCommandAnswersOnce := by
  intro i s
  obtain ⟨u, r, hexec, hran, hval⟩ := exec_delivers i s
  exact ⟨u.deliver r, r, hexec, congrArg (· ++ [r]) hran.responses_eq, hval, congrArg (· + 1) hran.pc, hran.program,
    hran.params⟩

/-- Settles O14: the response found in the next state is the one the command delivered, of a status listed for it. -/
theorem statusesAndWhoRaisesThem : Obligations.StatusesAndWhoRaisesThem := by
  refine ⟨rfl, fun i s t r ht hr => ?_⟩
  cases ht ▸ exec_answersAsListed i s with
  | deliver u st v hu hst =>
    cases response_of_deliver hu hr
    exact hst

/-- Settles O15, by the operand check, with which every command begins. -/
theorem wideOperandIsOutOfRange : Obligations.WideOperandIsOutOfRange := fun _ s hwide => exec_wide s hwide

/-- Settles O16: with the operand in range the address or the window is checked next. -/
theorem addressOutsideItsSpace : Obligations.AddressOutsideItsSpace := by
  refine ⟨fun s a hout => ⟨fun b => exec_stb_outside (sp := .opt) b s hout, ?_⟩,
    fun s off len hout => ⟨exec_decode_outside s hout, exec_cksum_outside s hout⟩⟩
  rw [exec_ldb, s.loadResponse_outside (sp := .opt) hout]
  rfl

/-- Settles O17, by the three things a command can answer: refused it has changed nothing, and the status of the other
two is excluded. -/
theorem failedCommandsChangeNothing : Obligations.FailedCommandsChangeNothing := by
  intro i s t r ht hr hok hunderrun hshort
  cases ht ▸ exec_answers i s with
  | refused st =>
    cases response_of_deliver rfl hr
    rfl
  | completed v =>
    cases response_of_deliver (ranCommands_effect i s).responses_eq hr
    exact absurd rfl hok
  | failed a imm st hi hst =>
    cases response_of_deliver (s := s) rfl hr
    exact absurd hst (not_or.mpr ⟨hunderrun, hshort⟩)

end
